-- ==== Sys2Proof/Word.lean ====
section
/-! DEFINITION. The two value types of the core (00_scope.md R10): 32-bit register values and 8-bit buffer bytes. -/

namespace Sys2Proof

/-- A register value: an unsigned 32-bit integer, bit 0 least significant (R9, R10). -/
abbrev Word := BitVec 32

/-- A buffer element: an unsigned 8-bit byte (R10). -/
abbrev Byte := BitVec 8

end Sys2Proof
end

