-- ==== Sys2Proof/Syntax.lean ====
section
/-! DEFINITION. The commands of the core: one constructor for each row of spec/opcode_table.json
(30_encoding.md R103). -/

namespace Sys2Proof

/-- A command. Commands have no register-number fields; only CRC_BYTE has an operand in its word (R101, R102). -/
inductive Instr where
  /-- NOP, OPC 0x00 (40_command_cycle.md R139). -/
  | nop
  /-- CRC_INIT, OPC 0x01 (41_crc.md R154). -/
  | crcInit
  /-- CRC_BYTE, OPC 0x02, with the data byte IMM8 (41_crc.md R155). -/
  | crcByte (imm8 : Byte)
  /-- CRC_BUF, OPC 0x03 (41_crc.md R156). -/
  | crcBuf
  /-- TYPE_LOAD_STR, OPC 0x08 (42_chunk_type.md R180). -/
  | typeLoadStr
  /-- CHUNK_NEW, OPC 0x10 (43_chunk_frame.md R190). -/
  | chunkNew
  /-- CHUNK_PARSE, OPC 0x11 (43_chunk_frame.md R200). -/
  | chunkParse
  /-- CHUNK_EMIT, OPC 0x12 (43_chunk_frame.md R210). -/
  | chunkEmit
  deriving DecidableEq, Repr

end Sys2Proof
end

