-- ==== Sys2Proof/WellFormed.lean ====
section
/-! DEFINITION. The fields of a command word (30_encoding.md R100) and the check that R104 calls legality. -/

namespace Sys2Proof

/-- The three fields of a command word (R100). -/
structure CmdFields where
  /-- OPC, bits [7:0]. -/
  opc : Byte
  /-- IMM8, bits [15:8]. -/
  imm8 : Byte
  /-- RSVD, bits [31:16]. -/
  rsvd : BitVec 16
  deriving DecidableEq, Repr

/-- The fields of a word, by the bit ranges of R100. -/
def cmdFields (w : Word) : CmdFields :=
  { opc := w.extractLsb' 0 8, imm8 := w.extractLsb' 8 8, rsvd := w.extractLsb' 16 16 }

/-- The eight opcodes of R103. -/
def definedOpcodes : List Byte :=
  [0x00#8, 0x01#8, 0x02#8, 0x03#8, 0x08#8, 0x10#8, 0x11#8, 0x12#8]

/-- First condition of R104: OPC is one of the eight opcodes. -/
def CmdFields.opcodeDefined (f : CmdFields) : Bool := definedOpcodes.contains f.opc

/-- Second condition of R104: RSVD is 0. -/
def CmdFields.reservedClear (f : CmdFields) : Bool := f.rsvd == 0#16

/-- Third condition of R104: IMM8 is 0, unless the opcode is CRC_BYTE. -/
def CmdFields.immediateAllowed (f : CmdFields) : Bool := f.imm8 == 0#8 || f.opc == 0x02#8

/-- R104: a command word is legal if and only if all three conditions hold. -/
def CmdFields.wellFormed (f : CmdFields) : Bool :=
  f.opcodeDefined && f.reservedClear && f.immediateAllowed

/-- Legality of a word (R104). -/
def legalWord (w : Word) : Bool := (cmdFields w).wellFormed

/-- Every term of `Instr` is well formed: CRC_BYTE admits all 256 values of IMM8 (R101), and no other command has an
operand. -/
def Instr.wellFormed (i : Instr) : Bool :=
  match i with
  | .nop => true
  | .crcInit => true
  | .crcByte _ => true
  | .crcBuf => true
  | .typeLoadStr => true
  | .chunkNew => true
  | .chunkParse => true
  | .chunkEmit => true

end Sys2Proof
end

