-- ==== Sys2Proof/Decode.lean ====
section
/-! DEFINITION. The decoder of command words, total, rejecting an illegal word by the condition of 30_encoding.md R104
that it breaks; the encoder; and the match and mask table of the same rule. -/

namespace Sys2Proof

/-- Why a word is illegal (R104, R105). -/
inductive Illegal where
  /-- RSVD is not 0. -/
  | reservedField (rsvd : BitVec 16)
  /-- OPC is none of the eight opcodes. -/
  | reservedOpcode (opc : Byte)
  /-- IMM8 is not 0 on a command other than CRC_BYTE. -/
  | strayImmediate (imm8 : Byte)
  deriving DecidableEq, Repr

/-- The opcode map (R103): the command an OPC names, given IMM8. -/
def opcodeMap (opc imm8 : Byte) : Option Instr :=
  if opc = 0x00#8 then some .nop
  else if opc = 0x01#8 then some .crcInit
  else if opc = 0x02#8 then some (.crcByte imm8)
  else if opc = 0x03#8 then some .crcBuf
  else if opc = 0x08#8 then some .typeLoadStr
  else if opc = 0x10#8 then some .chunkNew
  else if opc = 0x11#8 then some .chunkParse
  else if opc = 0x12#8 then some .chunkEmit
  else none

/-- The decoder (R104): a legal word gives the command its OPC names; an illegal word is rejected by name. -/
def decode (w : Word) : Except Illegal Instr :=
  let f := cmdFields w
  if f.rsvd ≠ 0#16 then .error (.reservedField f.rsvd)
  else
    match opcodeMap f.opc f.imm8 with
    | none => .error (.reservedOpcode f.opc)
    | some i => if f.immediateAllowed then .ok i else .error (.strayImmediate f.imm8)

/-- The OPC of a command (R103). -/
def Instr.opcode (i : Instr) : Byte :=
  match i with
  | .nop => 0x00#8
  | .crcInit => 0x01#8
  | .crcByte _ => 0x02#8
  | .crcBuf => 0x03#8
  | .typeLoadStr => 0x08#8
  | .chunkNew => 0x10#8
  | .chunkParse => 0x11#8
  | .chunkEmit => 0x12#8

/-- The IMM8 of a command: its byte for CRC_BYTE, 0 for every other (R100, R101). -/
def Instr.immediate (i : Instr) : Byte :=
  match i with
  | .crcByte b => b
  | .nop => 0#8
  | .crcInit => 0#8
  | .crcBuf => 0#8
  | .typeLoadStr => 0#8
  | .chunkNew => 0#8
  | .chunkParse => 0#8
  | .chunkEmit => 0#8

/-- The encoder: RSVD = 0, then IMM8, then OPC, most significant first (R100). -/
def encode (i : Instr) : Word := (0#16 ++ i.immediate) ++ i.opcode

/-- A row of the decoder written as match and mask (R104). -/
structure OpcodeRow where
  matchBits : Word
  mask : Word
  deriving DecidableEq, Repr

/-- A word matches a row if the bits under the mask are the row's. -/
def OpcodeRow.matchesWord (r : OpcodeRow) (w : Word) : Bool := (w &&& r.mask) == r.matchBits

/-- The row of R104's table for each command. -/
def Instr.row (i : Instr) : OpcodeRow :=
  match i with
  | .nop => ⟨0x00000000#32, 0xFFFFFFFF#32⟩
  | .crcInit => ⟨0x00000001#32, 0xFFFFFFFF#32⟩
  | .crcByte _ => ⟨0x00000002#32, 0xFFFF00FF#32⟩
  | .crcBuf => ⟨0x00000003#32, 0xFFFFFFFF#32⟩
  | .typeLoadStr => ⟨0x00000008#32, 0xFFFFFFFF#32⟩
  | .chunkNew => ⟨0x00000010#32, 0xFFFFFFFF#32⟩
  | .chunkParse => ⟨0x00000011#32, 0xFFFFFFFF#32⟩
  | .chunkEmit => ⟨0x00000012#32, 0xFFFFFFFF#32⟩

/-- The eight rows of R104's table, in its order. -/
def opcodeRows : List OpcodeRow :=
  [Instr.nop.row, Instr.crcInit.row, (Instr.crcByte 0).row, Instr.crcBuf.row,
   Instr.typeLoadStr.row, Instr.chunkNew.row, Instr.chunkParse.row, Instr.chunkEmit.row]

/-- The word that four bytes of a bus write carry, in the host bus's little-endian lanes (20_memory.md R74). -/
def wordOfLanes (b0 b1 b2 b3 : Byte) : Word := ((b3 ++ b2) ++ b1) ++ b0

/-- The decoder over bytes: it always consumes 4 bytes, which is one CMD write (R106). Fewer than four bytes are no
command, and nothing is consumed. -/
def decodeBytes (bs : List Byte) : Option (Except Illegal Instr × List Byte) :=
  match bs with
  | b0 :: b1 :: b2 :: b3 :: rest => some (decode (wordOfLanes b0 b1 b2 b3), rest)
  | _ => none

/-- The host's view of the decoder: the instruction read from the word whose low `nbits` bits are those of `w`. A number
too long for one 32-bit word is no command (R106). -/
def decodeTableWord (nbits w : Nat) : Option Instr :=
  let v := w % 2 ^ nbits
  if v < 2 ^ 32 then (decode (BitVec.ofNat 32 v)).toOption else none

end Sys2Proof
end

