-- ==== Sys2Proof/Config.lean ====
section
/-! DEFINITION. The implementation parameters of the core (00_scope.md R7), and the one free value of the model:
the contents of BUF after a reset (70_reset_and_hazards.md R281). -/

namespace Sys2Proof

/-- The parameters of R7 that a rule of the core depends on. R7 says that a model takes each as an argument;
`Host.Core` has no argument, so a machine state carries its configuration and no step changes it
(DESIGN CHOICE, notes/assumptions/1.md). -/
structure Config where
  /-- BUF_ADDR_BITS: the width of a buffer offset, 4 to 31. -/
  bufAddrBits : Nat
  deriving DecidableEq, Repr

/-- BUF_SIZE = 2^BUF_ADDR_BITS (R7). -/
def Config.bufSize (c : Config) : Nat := 2 ^ c.bufAddrBits

/-- The legal values of BUF_ADDR_BITS (R7, R8, decision D41). -/
def Config.wellFormed (c : Config) : Bool := decide (4 ≤ c.bufAddrBits) && decide (c.bufAddrBits ≤ 31)

/-- The reference configuration: BUF_ADDR_BITS = 16, so BUF_SIZE = 65536 (R7, decision D3). -/
def Config.reference : Config := ⟨16⟩

/-- RESET_BUF (R7, R281, U1): the byte BUF holds at an offset after the k-th reset, for as long as nothing has written
that offset. The spec says that a model quantifies over every RESET_BUF, so this constant has no value that a proof
could use (notes/assumptions/2.md). -/
opaque Config.resetBuf : (k : Nat) → (offset : Nat) → Byte

/-- REG_BASE and BUF_BASE (R7, R70): where a platform puts the two windows. Every rule is stated by window and offset,
so only the address decoder of Machine/Bus.lean takes a placement. -/
structure Placement where
  regBase : Nat
  bufBase : Nat
  deriving DecidableEq, Repr

/-- The length of the register window in bytes (10_state.md R22). -/
def regWindowSize : Nat := 256

/-- The two windows do not overlap (R70). -/
def Placement.wellFormed (p : Placement) (c : Config) : Bool :=
  decide (p.regBase + regWindowSize ≤ p.bufBase) || decide (p.bufBase + c.bufSize ≤ p.regBase)

end Sys2Proof
end

