-- ==== Sys2Proof/Machine/State.lean ====
section
/-! DEFINITION. The state of the machine: the architectural state of the core (10_state.md R20), the two agents' pending
steps (00_scope.md R6) and the replies the host bus has given; the reasons a step can stop; and the state after reset
(70_reset_and_hazards.md R280). -/

namespace Sys2Proof.Machine

/-- The error codes of 60_exceptions.md R250 by name. `utf8Decode` is the reserved code that the core never writes
(R251); the unnamed reserved codes 0x06 to 0x0F and 0x14 to 0xFF have no constructor, so no state holds one (U10). -/
inductive ErrCode where
  | ok
  | tooShort
  | truncated
  | crcMismatch
  | invalidChunkType
  | utf8Decode
  | illegalCommand
  | range
  | overlap
  | noChunk
  deriving DecidableEq, Repr

/-- The two host-visible address spaces (20_memory.md R70). -/
inductive Window where
  /-- The register window: 256 bytes. -/
  | registers
  /-- The buffer window: BUF_SIZE bytes. -/
  | buffer
  deriving DecidableEq, Repr

/-- What a host access does. A write carries its value in the low bits of a 32-bit bus word. -/
inductive AccessKind where
  | read
  | write (value : Word)
  deriving DecidableEq, Repr

/-- One host access, addressed by its offset inside a window (20_memory.md R70). Any width in bits and any offset can be
asked for; R72 says which the core admits. -/
structure HostAccess where
  window : Window
  offset : Nat
  width  : Nat
  kind   : AccessKind
  deriving DecidableEq, Repr

/-- One entry of the total order of R82 that the environment still owes the machine: a host access, a turn of the core
agent (00_scope.md R6), or an assertion of the reset signal (70_reset_and_hazards.md R283). -/
inductive Event where
  | access (a : HostAccess)
  | coreTurn
  | reset
  deriving DecidableEq, Repr

/-- What the host bus returns for one access: the data of a read, the acceptance of a write, or the outcome `busError`
of 20_memory.md R73. -/
inductive Reply where
  | data (value : Word)
  | accepted
  | busError
  deriving DecidableEq, Repr

/-- The bytes of BUF that have been written since the last reset, as offset and byte pairs in rising order of offset. -/
abbrev Memory := List Host.Cell

/-- The state. Every field but the last five is the core's own (R20 to R48); `cfg` is its configuration (R7), which no
step changes. -/
structure State where
  /-- The parameters of R7. -/
  cfg : Config
  /-- CMD (R24), which is also PENDING (R47): the last accepted command word. -/
  cmd : Word
  /-- STATUS.BUSY (R25, R47). -/
  busy : Bool
  /-- STATUS.DONE (R25). -/
  done : Bool
  /-- STATUS.ERR (R25). -/
  err : Bool
  /-- STATUS.OVR (R25). -/
  ovr : Bool
  /-- STATUS.ERR_CODE (R25, R250). -/
  errCode : ErrCode
  /-- IRQ_EN.IE (R27). -/
  ie : Bool
  /-- CRC_STATE (R28). -/
  crcState : Word
  /-- SRC_OFF (R30). -/
  srcOff : Word
  /-- SRC_LEN (R30). -/
  srcLen : Word
  /-- DST_OFF (R30). -/
  dstOff : Word
  /-- TYPE (R31). -/
  typeReg : Word
  /-- TYPE_B (R32). -/
  typeB : Word
  /-- CH_LEN (R40). -/
  chLen : Word
  /-- CH_TYPE (R40). -/
  chType : Word
  /-- CH_PAYLOAD_OFF (R40). -/
  chPayloadOff : Word
  /-- CH_CRC (R40). -/
  chCrc : Word
  /-- CH_STATUS.VALID (R40). -/
  chValid : Bool
  /-- CRC_STORED (R42). -/
  crcStored : Word
  /-- CRC_COMPUTED (R42). -/
  crcComputed : Word
  /-- OUT_LEN (R42). -/
  outLen : Word
  /-- BUF (R45): the bytes written since the last reset. -/
  buf : Memory
  /-- The model's own field: how many resets there have been, which selects RESET_BUF (R281). -/
  resets : Nat
  /-- The host access that is stalled (40_command_cycle.md R136), if one is. -/
  stalled : Option HostAccess
  /-- What the environment still owes the machine, first entry first (R82). -/
  inbox : List Event
  /-- The replies of the host bus, newest first. -/
  replies : List Reply
  deriving DecidableEq, Repr

/-- The reasons the machine stops. The core itself has no trap and no fault (60_exceptions.md R256): every error is a
code in STATUS, and the run goes on. -/
inductive Fault where
  /-- CHUNK_EMIT would read a payload byte at an offset at or above BUF_SIZE, where BUF has no byte. The descriptor
  invariant (10_state.md R41) rules such a descriptor out, so no run from reset raises it. Raised by CHUNK_EMIT alone.
  Safe: the model stops where the hardware has no such state. -/
  | payloadOutsideBuf
  deriving DecidableEq, Repr

/-- The reasons a command is refused. -/
inductive Refusal where
  /-- A command of the opcode table that has no meaning in this model, named as the table names it. Raised by an arm of
  `exec` alone; no arm raises it now. Safe: the model stops where the hardware goes on. -/
  | notModelled (mnemonic : String)
  deriving DecidableEq, Repr

/-- The state right after the `resets`-th reset in a configuration, with nothing pending (R280, R282): every register at
its value in R22, BUF with nothing written in it (R281), and no stalled access (R282). -/
def State.afterReset (cfg : Config) (resets : Nat) : State :=
  { cfg := cfg
    cmd := 0x00000000#32
    busy := false
    done := false
    err := false
    ovr := false
    errCode := .ok
    ie := false
    crcState := 0xFFFFFFFF#32
    srcOff := 0x00000000#32
    srcLen := 0x00000000#32
    dstOff := 0x00000000#32
    typeReg := 0x00000000#32
    typeB := 0x00000000#32
    chLen := 0x00000000#32
    chType := 0x00000000#32
    chPayloadOff := 0x00000000#32
    chCrc := 0x00000000#32
    chValid := false
    crcStored := 0x00000000#32
    crcComputed := 0x00000000#32
    outLen := 0x00000000#32
    buf := []
    resets := resets
    stalled := none
    inbox := []
    replies := [] }

/-- The machine right after reset (R280), in the reference configuration (R7), with nothing pending. -/
def State.reset : State := State.afterReset Config.reference 0

end Sys2Proof.Machine
end

