-- ==== Sys2Proof/Machine/Ops.lean ====
section
/-! DEFINITION. The named operations over memory and registers: reading and writing a byte of BUF, accepting a command
(40_command_cycle.md R130), completing one (R133), and replying on the host bus. -/

namespace Sys2Proof.Machine

/-! ### The bytes of BUF -/

/-- What an unlisted offset holds: no written byte. What such an offset READS as is RESET_BUF (`bufByte`). -/
def Memory.unlisted : Option Byte := none

/-- The byte written at an offset, if one has been. -/
def Memory.get : Memory → Nat → Option Byte
  | [], _ => Memory.unlisted
  | (a, v) :: m, o => if o = a then some v else Memory.get m o

/-- Write one byte, keeping the offsets strictly rising. -/
def Memory.set : Memory → Nat → Byte → Memory
  | [], o, v => [(o, v)]
  | (a, w) :: m, o, v =>
    if o < a then (o, v) :: (a, w) :: m
    else if o = a then (o, v) :: m
    else (a, w) :: Memory.set m o v

/-- Write bytes at successive offsets from `o`. -/
def Memory.setAll : Memory → Nat → List Byte → Memory
  | m, _, [] => m
  | m, o, b :: bs => Memory.setAll (Memory.set m o b) (o + 1) bs

/-- The offsets rise strictly and start at `lo` or above. -/
def Memory.risingFrom : Nat → Memory → Bool
  | _, [] => true
  | lo, (a, _) :: m => decide (lo ≤ a) && Memory.risingFrom (a + 1) m

/-- The one canonical form: offsets strictly rising, and no entry equal to what an unlisted offset holds. -/
def Memory.wf (m : Memory) : Bool :=
  Memory.risingFrom 0 m && m.all (fun c => some c.2 != Memory.unlisted)

/-- Every listed offset is an offset of BUF (10_state.md R45). -/
def Memory.below (m : Memory) (size : Nat) : Bool := m.all (fun c => decide (c.1 < size))

/-- BUF_SIZE of the state's configuration (R7). -/
def State.bufSize (s : State) : Nat := s.cfg.bufSize

/-- The byte BUF holds at an offset: the last byte written there since reset, and before any write the byte of RESET_BUF
(R45, R82, R281), which is a free value. -/
def bufByte (s : State) (o : Nat) : Byte :=
  match Memory.get s.buf o with
  | some b => b
  | none => Config.resetBuf s.resets o

/-- BufRead(o, n) (00_scope.md R12): the `n` bytes of BUF from offset `o`. -/
def bufRead (s : State) : (o n : Nat) → List Byte
  | _, 0 => []
  | o, n + 1 => bufByte s o :: bufRead s (o + 1) n

/-- BufWrite(o, bs) (R12). -/
def bufWrite (o : Nat) (bs : List Byte) (s : State) : State :=
  { s with buf := Memory.setAll s.buf o bs }

/-! ### The command cycle -/

/-- Acceptance of a command word (R130): CMD (which is PENDING) takes it, BUSY is set and DONE is cleared. -/
def acceptCommand (w : Word) (s : State) : State :=
  { s with cmd := w, busy := true, done := false }

/-- complete(E), the status writes of a completion (R133): ERR_CODE, ERR, BUSY and DONE. OVR keeps its value. -/
def complete (e : ErrCode) (s : State) : State :=
  { s with errCode := e, err := e != .ok, busy := false, done := true }

/-- raise E (R12): ends the command with an error code. This is the core's whole exception entry: it has no trap
mechanism, so nothing is saved, no mode changes and there is no handler (60_exceptions.md R256); and there is no return
from one (R258). -/
def raise (e : ErrCode) (s : State) : State := complete e s

/-- The host bus answers an access. -/
def reply (r : Reply) (s : State) : State := { s with replies := r :: s.replies }

end Sys2Proof.Machine
end

