-- ==== Sys2Proof/Machine/Operands.lean ====
section
/-! DEFINITION. Every operand form of the core: the bytes of a type (42_chunk_type.md), be32 and from_be32
(00_scope.md R11), the source range of a command (30_encoding.md R102) and the byte lanes of the host bus
(20_memory.md R74). -/

namespace Sys2Proof.Machine

/-- byte_i(t): byte 0 is in bits [31:24] and byte 3 in bits [7:0] (10_state.md R31). -/
def typeByte (t : Word) (i : Nat) : Byte := t.extractLsb' (24 - 8 * i) 8

/-- be32(v): the four bytes of a word, most significant first (R11). -/
def be32 (v : Word) : List Byte := [typeByte v 0, typeByte v 1, typeByte v 2, typeByte v 3]

/-- from_be32 of four bytes, the first most significant (R11). -/
def fromBe32 (b0 b1 b2 b3 : Byte) : Word := ((b0 ++ b1) ++ b2) ++ b3

/-- from_be32(BufRead(o, 4)): a big-endian word of BUF (R75). -/
def bufBe32 (s : State) (o : Nat) : Word :=
  fromBe32 (bufByte s o) (bufByte s (o + 1)) (bufByte s (o + 2)) (bufByte s (o + 3))

/-- SRC_OFF + SRC_LEN ≤ BUF_SIZE, an exact sum (R46, decision D19). -/
def srcInBuf (s : State) : Bool := decide (s.srcOff.toNat + s.srcLen.toNat ≤ s.bufSize)

/-- BUF[SRC_OFF .. SRC_OFF+SRC_LEN). -/
def srcBytes (s : State) : List Byte := bufRead s s.srcOff.toNat s.srcLen.toNat

/-- The value of bytes in little-endian lanes, the first byte in bits [7:0] (R74). -/
def fromLanes : List Byte → Word
  | [] => 0#32
  | b :: bs => b.setWidth 32 ||| (fromLanes bs <<< 8)

/-- The low `n` bytes of a bus word in little-endian lanes (R74). -/
def toLanes : Nat → Word → List Byte
  | 0, _ => []
  | n + 1, v => v.setWidth 8 :: toLanes n (v >>> 8)

end Sys2Proof.Machine
end

