-- ==== Sys2Proof/Machine/Flags.lean ====
section
/-! DEFINITION. Every flag the core computes: the type properties (42_chunk_type.md R170 to R177), the words of
TYPE_FLAGS (10_state.md R33) and STATUS (R25), the codes of the errors (60_exceptions.md R250) and the interrupt output
(R260). -/

namespace Sys2Proof.Machine

/-- Bit 5 of a byte is 0: `(b & 0x20) = 0`. -/
def bit5Clear (b : Byte) : Bool := (b &&& 0x20#8) == 0#8

/-- is_critical(t) (R170). -/
def isCritical (t : Word) : Bool := bit5Clear (typeByte t 0)

/-- is_public(t) (R171). -/
def isPublic (t : Word) : Bool := bit5Clear (typeByte t 1)

/-- is_reserved_bit_valid(t) (R172). -/
def isReservedBitValid (t : Word) : Bool := bit5Clear (typeByte t 2)

/-- is_safe_to_copy(t) (R173): the one property of the opposite polarity. -/
def isSafeToCopy (t : Word) : Bool := !bit5Clear (typeByte t 3)

/-- An ASCII letter: 0x41 to 0x5A or 0x61 to 0x7A (R174). -/
def isLetter (b : Byte) : Bool :=
  (decide (0x41 ≤ b.toNat) && decide (b.toNat ≤ 0x5A)) || (decide (0x61 ≤ b.toNat) && decide (b.toNat ≤ 0x7A))

/-- all_letters(t) (R174). -/
def allLetters (t : Word) : Bool :=
  isLetter (typeByte t 0) && isLetter (typeByte t 1) && isLetter (typeByte t 2) && isLetter (typeByte t 3)

/-- is_valid(t) (R175). -/
def isValid (t : Word) : Bool := allLetters t && isReservedBitValid t

/-- type_eq(a, b): exact identity of all four bytes (R177). -/
def typeEq (a b : Word) : Bool := a == b

/-- A flag as a word with that one bit. -/
def flagAt (i : Nat) (b : Bool) : Word := (BitVec.ofBool b).setWidth 32 <<< i

/-- The six property bits of one type, in the order of R33's table. -/
def typeProperties (t : Word) : Word :=
  flagAt 0 (isCritical t) ||| flagAt 1 (isPublic t) ||| flagAt 2 (isReservedBitValid t) |||
    flagAt 3 (isSafeToCopy t) ||| flagAt 4 (allLetters t) ||| flagAt 5 (isValid t)

/-- TYPE_FLAGS (R33), a function of TYPE, CH_TYPE and TYPE_B. -/
def typeFlags (s : State) : Word :=
  typeProperties s.typeReg ||| (typeProperties s.chType <<< 8) |||
    flagAt 16 (typeEq s.typeReg s.typeB) ||| flagAt 17 (typeEq s.chType s.typeB)

/-- The code of an error (R250). -/
def ErrCode.code (e : ErrCode) : Byte :=
  match e with
  | .ok => 0x00#8
  | .tooShort => 0x01#8
  | .truncated => 0x02#8
  | .crcMismatch => 0x03#8
  | .invalidChunkType => 0x04#8
  | .utf8Decode => 0x05#8
  | .illegalCommand => 0x10#8
  | .range => 0x11#8
  | .overlap => 0x12#8
  | .noChunk => 0x13#8

/-- The word STATUS reads as (R25). -/
def statusWord (s : State) : Word :=
  flagAt 0 s.busy ||| flagAt 1 s.done ||| flagAt 2 s.err ||| flagAt 3 s.ovr ||| (s.errCode.code.setWidth 32 <<< 8)

/-- CRC_RESULT = CRC_STATE ^ 0xFFFFFFFF (R29). -/
def crcResult (s : State) : Word := s.crcState ^^^ 0xFFFFFFFF#32

/-- The interrupt output IRQ = IRQ_EN.IE & STATUS.DONE (R260). -/
def irq (s : State) : Bool := s.ie && s.done

end Sys2Proof.Machine
end

