-- ==== Sys2Proof/Machine/Bus.lean ====
section
/-! DEFINITION. The host's side of the core: the register map (10_state.md R22), host reads and writes of registers
(40_command_cycle.md R140, R141) and of BUF (20_memory.md R71, R74), bus errors (R72, R73), stalls (R136), and the
windows' places on the bus (R70). -/

namespace Sys2Proof.Machine

/-! ### The register window -/

/-- The registers of R22. -/
inductive Reg where
  | id | cmd | status | irqEn | crcState | crcResult | srcOff | srcLen | dstOff | type | typeB | typeFlags
  | chLen | chType | chPayloadOff | chCrc | chStatus | crcStored | crcComputed | outLen
  deriving DecidableEq, Repr

/-- The register at an offset of the window (R22); offsets 0x50 to 0xFC are reserved (R43). -/
def regAt (offset : Nat) : Option Reg :=
  match offset with
  | 0x00 => some .id
  | 0x04 => some .cmd
  | 0x08 => some .status
  | 0x0C => some .irqEn
  | 0x10 => some .crcState
  | 0x14 => some .crcResult
  | 0x18 => some .srcOff
  | 0x1C => some .srcLen
  | 0x20 => some .dstOff
  | 0x24 => some .type
  | 0x28 => some .typeB
  | 0x2C => some .typeFlags
  | 0x30 => some .chLen
  | 0x34 => some .chType
  | 0x38 => some .chPayloadOff
  | 0x3C => some .chCrc
  | 0x40 => some .chStatus
  | 0x44 => some .crcStored
  | 0x48 => some .crcComputed
  | 0x4C => some .outLen
  | _ => none

/-- The identification constant (R23). -/
def idValue : Word := 0x504E4743#32

/-- The value of a register, reserved bits 0, derived registers computed from the current values (R141). -/
def readReg (s : State) (r : Reg) : Word :=
  match r with
  | .id => idValue
  | .cmd => s.cmd
  | .status => statusWord s
  | .irqEn => flagAt 0 s.ie
  | .crcState => s.crcState
  | .crcResult => crcResult s
  | .srcOff => s.srcOff
  | .srcLen => s.srcLen
  | .dstOff => s.dstOff
  | .type => s.typeReg
  | .typeB => s.typeB
  | .typeFlags => typeFlags s
  | .chLen => s.chLen
  | .chType => s.chType
  | .chPayloadOff => s.chPayloadOff
  | .chCrc => s.chCrc
  | .chStatus => flagAt 0 s.chValid
  | .crcStored => s.crcStored
  | .crcComputed => s.crcComputed
  | .outLen => s.outLen

/-- A host read of the register window; a reserved offset reads 0 (R43). -/
def readWindow (s : State) (offset : Nat) : Word :=
  match regAt offset with
  | some r => readReg s r
  | none => 0x00000000#32

/-- A host write to CMD: accepted when the core is not busy (R130), else dropped with OVR set (R135). -/
def writeCmd (w : Word) (s : State) : State :=
  if s.busy then { s with ovr := true } else acceptCommand w s

/-- A host write to STATUS clears DONE for a 1 in bit 1 and OVR for a 1 in bit 3; every other bit is ignored (R25). -/
def writeStatus (v : Word) (s : State) : State :=
  { s with done := s.done && !v.getLsbD 1, ovr := s.ovr && !v.getLsbD 3 }

/-- The effect of a host write on a register (R140); a write to an RO register is ignored (R44). -/
def writeReg (r : Reg) (v : Word) (s : State) : State :=
  match r with
  | .cmd => writeCmd v s
  | .status => writeStatus v s
  | .irqEn => { s with ie := v.getLsbD 0 }
  | .crcState => { s with crcState := v }
  | .srcOff => { s with srcOff := v }
  | .srcLen => { s with srcLen := v }
  | .dstOff => { s with dstOff := v }
  | .type => { s with typeReg := v }
  | .typeB => { s with typeB := v }
  | .id => s
  | .crcResult => s
  | .typeFlags => s
  | .chLen => s
  | .chType => s
  | .chPayloadOff => s
  | .chCrc => s
  | .chStatus => s
  | .crcStored => s
  | .crcComputed => s
  | .outLen => s

/-- A host write to the register window; a write to a reserved offset is ignored (R43). -/
def writeWindow (offset : Nat) (v : Word) (s : State) : State :=
  match regAt offset with
  | some r => writeReg r v s
  | none => s

/-- The registers whose writes stall while BUSY = 1 (R136). -/
def Reg.stallsOnWrite (r : Reg) : Bool :=
  match r with
  | .crcState => true
  | .srcOff => true
  | .srcLen => true
  | .dstOff => true
  | .type => true
  | .typeB => true
  | .id => false
  | .cmd => false
  | .status => false
  | .irqEn => false
  | .crcResult => false
  | .typeFlags => false
  | .chLen => false
  | .chType => false
  | .chPayloadOff => false
  | .chCrc => false
  | .chStatus => false
  | .crcStored => false
  | .crcComputed => false
  | .outLen => false

/-! ### Accesses -/

/-- The accesses the core admits (R72): aligned, of an allowed width, and wholly inside the window. -/
def admissible (c : Config) (a : HostAccess) : Bool :=
  match a.window with
  | .registers => a.width == 32 && a.offset % 4 == 0 && decide (a.offset + 4 ≤ regWindowSize)
  | .buffer =>
    (a.width == 8 || (a.width == 16 && a.offset % 2 == 0) || (a.width == 32 && a.offset % 4 == 0)) &&
      decide (a.offset + a.width / 8 ≤ c.bufSize)

/-- The accesses that stall while BUSY = 1 (R136): a write to one of six registers, and any access to the buffer
window. A bus-error access never stalls. -/
def stallable (c : Config) (a : HostAccess) : Bool :=
  admissible c a &&
    match a.window, a.kind with
    | .buffer, _ => true
    | .registers, .read => false
    | .registers, .write _ => ((regAt a.offset).map Reg.stallsOnWrite).getD false

/-- An access stalls now (R136). -/
def stallsNow (s : State) (a : HostAccess) : Bool := s.busy && stallable s.cfg a

/-- Perform an access that does not stall, as one indivisible step at its full width (R78), and reply to it. An access
that R72 does not admit gets `busError` and changes nothing (R73). -/
def performAccess (a : HostAccess) (s : State) : State :=
  if admissible s.cfg a then
    match a.window, a.kind with
    | .registers, .read => reply (.data (readWindow s a.offset)) s
    | .registers, .write v => reply .accepted (writeWindow a.offset v s)
    | .buffer, .read => reply (.data (fromLanes (bufRead s a.offset (a.width / 8)))) s
    | .buffer, .write v => reply .accepted (bufWrite a.offset (toLanes (a.width / 8) v) s)
  else reply .busError s

/-- The window and offset that a bus address reaches, given where a platform puts the windows (R70). Any other address
is not the core's. -/
def locate (p : Placement) (c : Config) (addr : Nat) : Option (Window × Nat) :=
  if p.regBase ≤ addr ∧ addr < p.regBase + regWindowSize then some (.registers, addr - p.regBase)
  else if p.bufBase ≤ addr ∧ addr < p.bufBase + c.bufSize then some (.buffer, addr - p.bufBase)
  else none

/-- The access that a bus transaction at an address makes to the core, if it reaches the core at all (R70). -/
def accessAt (p : Placement) (c : Config) (addr width : Nat) (kind : AccessKind) : Option HostAccess :=
  (locate p c addr).map (fun wo => { window := wo.1, offset := wo.2, width := width, kind := kind })

end Sys2Proof.Machine
end

