-- ==== Sys2Proof/Machine/Crc.lean ====
section
/-! DEFINITION. The CRC-32/ISO-HDLC function (41_crc.md R150, R151) and the meanings of CRC_INIT, CRC_BYTE and CRC_BUF
(R154 to R156). -/

namespace Sys2Proof.Machine

/-- The reflected polynomial (R150). -/
def crcPoly : Word := 0xEDB88320#32

/-- The initial register value (R150). -/
def crcInitValue : Word := 0xFFFFFFFF#32

/-- The final XOR (R150). -/
def crcFinalXor : Word := 0xFFFFFFFF#32

/-- One of the eight rounds of the byte step (R151). -/
def crcRound (c : Word) : Word := if c.getLsbD 0 then (c >>> 1) ^^^ crcPoly else c >>> 1

/-- `n` rounds. -/
def crcRounds : Nat → Word → Word
  | 0, c => c
  | n + 1, c => crcRounds n (crcRound c)

/-- crc_step(c, b) (R151). -/
def crcStep (c : Word) (b : Byte) : Word := crcRounds 8 (c ^^^ b.setWidth 32)

/-- crc_fold(c, s) (R151): the bytes in order, the first first. -/
def crcFold : Word → List Byte → Word
  | c, [] => c
  | c, b :: bs => crcFold (crcStep c b) bs

/-- crc32(s) (R151). -/
def crc32 (bs : List Byte) : Word := crcFold crcInitValue bs ^^^ crcFinalXor

/-- CRC_INIT (R154). -/
def execCrcInit (s : State) : Host.Outcome State Fault Refusal :=
  .next (complete .ok { s with crcState := crcInitValue })

/-- CRC_BYTE (R155), with its data byte IMM8. -/
def execCrcByte (imm8 : Byte) (s : State) : Host.Outcome State Fault Refusal :=
  .next (complete .ok { s with crcState := crcStep s.crcState imm8 })

/-- CRC_BUF (R156). -/
def execCrcBuf (s : State) : Host.Outcome State Fault Refusal :=
  if srcInBuf s then .next (complete .ok { s with crcState := crcFold s.crcState (srcBytes s) })
  else .next (raise .range s)

end Sys2Proof.Machine
end

