-- ==== Sys2Proof/Machine/ChunkFrame.lean ====
section
/-! DEFINITION. The frame (43_chunk_frame.md R195) and the meanings of CHUNK_NEW (R190), CHUNK_PARSE (R200) and
CHUNK_EMIT (R210). -/

namespace Sys2Proof.Machine

/-- frame(N, t, p, c) = be32(N) ++ be32(t) ++ p ++ be32(c) (R195). -/
def frame (n t : Word) (p : List Byte) (c : Word) : List Byte := be32 n ++ (be32 t ++ (p ++ be32 c))

/-- Write a whole chunk descriptor: all five registers together (10_state.md R40). -/
def setDescriptor (n t off c : Word) (s : State) : State :=
  { s with chLen := n, chType := t, chPayloadOff := off, chCrc := c, chValid := true }

/-- CHUNK_NEW (R190). The payload stays in BUF; TYPE is not validated; CRC_STATE is not used (41_crc.md R152). -/
def execChunkNew (s : State) : Host.Outcome State Fault Refusal :=
  if srcInBuf s then
    .next (complete .ok
      (setDescriptor s.srcLen s.typeReg s.srcOff (crc32 (be32 s.typeReg ++ srcBytes s)) s))
  else .next (raise .range s)

/-- N, the declared payload length of the frame at SRC_OFF (R200 step 2). -/
def parseLen (s : State) : Word := bufBe32 s s.srcOff.toNat

/-- The CRC field of the frame at SRC_OFF, at frame offset 8 + N (R200 step 4). -/
def parseStored (s : State) : Word := bufBe32 s (s.srcOff.toNat + 8 + (parseLen s).toNat)

/-- The CRC recomputed over the checksum region, type ++ payload (R200 step 5). -/
def parseComputed (s : State) : Word := crc32 (bufRead s (s.srcOff.toNat + 4) (4 + (parseLen s).toNat))

/-- R200 step 5: both CRCs are recorded, whether or not they agree (10_state.md R42). -/
def recordCrcs (s : State) : State :=
  { s with crcStored := parseStored s, crcComputed := parseComputed s }

/-- R200 step 6: the registers a frame whose CRC agrees gives. -/
def takeFrame (s : State) : State :=
  { setDescriptor (parseLen s) (bufBe32 s (s.srcOff.toNat + 4)) (s.srcOff + 8#32) (parseStored s) (recordCrcs s) with
    outLen := 12#32 + parseLen s }

/-- CHUNK_PARSE (R200), with the checks in the source's step order after RANGE (60_exceptions.md R254). Every comparison
is exact (R202). -/
def execChunkParse (s : State) : Host.Outcome State Fault Refusal :=
  if srcInBuf s then
    if s.srcLen.toNat < 12 then .next (raise .tooShort s)
    else if s.srcLen.toNat - 4 < (parseLen s).toNat + 8 then .next (raise .truncated s)
    else if parseComputed s ≠ parseStored s then .next (raise .crcMismatch (recordCrcs s))
    else .next (complete .ok (takeFrame s))
  else .next (raise .range s)

/-- overlaps(P, n, D) (R211): the payload range meets the frame range, and it is not the in-place case. -/
def overlaps (p n d : Nat) : Bool :=
  decide (0 < n) && decide (p < d + 12 + n) && decide (d < p + n) && decide (p ≠ d + 8)

/-- The frame CHUNK_EMIT writes (R210): the payload bytes as BUF holds them now, and CH_CRC as it stands (R191). -/
def emitFrame (s : State) : List Byte :=
  frame s.chLen s.chType (bufRead s s.chPayloadOff.toNat s.chLen.toNat) s.chCrc

/-- CHUNK_EMIT (R210). After the rule's three checks, a payload that leaves BUF is a named fault: R41 says there is no
such descriptor. -/
def execChunkEmit (s : State) : Host.Outcome State Fault Refusal :=
  if s.chValid then
    if s.bufSize < s.dstOff.toNat + 12 + s.chLen.toNat then .next (raise .range s)
    else if overlaps s.chPayloadOff.toNat s.chLen.toNat s.dstOff.toNat then .next (raise .overlap s)
    else if s.bufSize < s.chPayloadOff.toNat + s.chLen.toNat then .fault .payloadOutsideBuf
    else .next (complete .ok { bufWrite s.dstOff.toNat (emitFrame s) s with outLen := 12#32 + s.chLen })
  else .next (raise .noChunk s)

end Sys2Proof.Machine
end

