-- ==== Sys2Proof/Machine/ChunkType.lean ====
section
/-! DEFINITION. The meaning of TYPE_LOAD_STR (42_chunk_type.md R180). -/

namespace Sys2Proof.Machine

/-- TYPE_LOAD_STR (R180): the range check, then the length, then the letters of the first four bytes; the bytes after
the fourth are not read (R182), and the reserved bit is not checked. -/
def execTypeLoadStr (s : State) : Host.Outcome State Fault Refusal :=
  if srcInBuf s then
    if s.srcLen.toNat < 4 then .next (raise .invalidChunkType s)
    else if allLetters (bufBe32 s s.srcOff.toNat) then
      .next (complete .ok { s with typeReg := bufBe32 s s.srcOff.toNat })
    else .next (raise .invalidChunkType s)
  else .next (raise .range s)

end Sys2Proof.Machine
end

