-- ==== Sys2Proof/Machine/Control.lean ====
section
/-! DEFINITION. The meaning of NOP (40_command_cycle.md R139), and the completion of an illegal word (R132,
30_encoding.md R104). -/

namespace Sys2Proof.Machine

/-- NOP (R139). -/
def execNop (s : State) : Host.Outcome State Fault Refusal := .next (complete .ok s)

/-- The completion of an illegal word (R104, R132): ILLEGAL_COMMAND, and nothing changes except STATUS. -/
def completeIllegal (s : State) : State := raise .illegalCommand s

end Sys2Proof.Machine
end

