-- ==== Sys2Proof/Machine/Dispatch.lean ====
section
/-! DEFINITION. exec: the outcome of each command at its completion (40_command_cycle.md R132), one arm for each
constructor of Instr. -/

namespace Sys2Proof.Machine

def exec (i : Instr) (s : State) : Host.Outcome State Fault Refusal :=
  match i with
  | .nop => Sys2Proof.Machine.execNop s
  | .crcInit => Sys2Proof.Machine.execCrcInit s
  | .crcByte imm8 => Sys2Proof.Machine.execCrcByte imm8 s
  | .crcBuf => Sys2Proof.Machine.execCrcBuf s
  | .typeLoadStr => Sys2Proof.Machine.execTypeLoadStr s
  | .chunkNew => Sys2Proof.Machine.execChunkNew s
  | .chunkParse => Sys2Proof.Machine.execChunkParse s
  | .chunkEmit => Sys2Proof.Machine.execChunkEmit s

end Sys2Proof.Machine
end

