-- ==== Sys2Proof/Machine/Agents.lean ====
section
/-! DEFINITION. The steps of the two agents (00_scope.md R6): the core's completion step (40_command_cycle.md R132,
R133), a host access with its stall (R136), and reset (70_reset_and_hazards.md R280, R282). -/

namespace Sys2Proof.Machine

/-- The completion step of the core agent, for a core with BUSY = 1 (R132, R133): decode CMD, and take the outcome of
its command; an illegal word completes with ILLEGAL_COMMAND. -/
def completionStep (s : State) : Host.Outcome State Fault Refusal :=
  match decode s.cmd with
  | .ok i => exec i s
  | .error _ => .next (completeIllegal s)

/-- A turn of the core agent: the completion is enabled exactly when BUSY = 1 (R133); otherwise the core does nothing
(60_exceptions.md R268). -/
def coreTurn (s : State) : Host.Outcome State Fault Refusal :=
  if s.busy then completionStep s else .next s

/-- Perform the stalled access, as it was written, once the completion has set BUSY = 0 (R136). -/
def performStalled (a : HostAccess) (s : State) : State := performAccess a { s with stalled := none }

/-- The step when the environment owes nothing, or when the host cannot go on: the one step that is left. A pending
completion is taken (R138), then the stalled access is performed; a quiescent core does nothing (R268). -/
def owedStep (s : State) : Host.Outcome State Fault Refusal :=
  if s.busy then completionStep s
  else
    match s.stalled with
    | some a => .next (performStalled a s)
    | none => .next s

/-- The host issues access `a`, which heads the inbox before `rest`. Accesses are made one at a time (R82): while one is
stalled, the step is the owed one and `a` waits in the inbox. Otherwise `a` stalls or is performed. -/
def hostTurn (a : HostAccess) (rest : List Event) (s : State) : Host.Outcome State Fault Refusal :=
  match s.stalled with
  | some _ => owedStep s
  | none =>
    if stallsNow s a then .next { s with stalled := some a, inbox := rest }
    else .next (performAccess a { s with inbox := rest })

/-- Reset (R280, R282): a command in flight and a stalled access are abandoned, every register takes its reset value and
BUF is RESET_BUF again. The replies already given to the host and what the environment still owes stay. -/
def resetCore (s : State) : State :=
  { State.afterReset s.cfg (s.resets + 1) with inbox := s.inbox, replies := s.replies }

/-- The core with a command word accepted and its completion next (R130). -/
def withCommandNext (w : Word) (s : State) : State :=
  { acceptCommand w s with inbox := .coreTurn :: s.inbox }

end Sys2Proof.Machine
end

