-- ==== Sys2Proof/Machine/Step.lean ====
section
/-! DEFINITION. One step of the machine: the next entry of the total order of 20_memory.md R82. -/

namespace Sys2Proof.Machine

/-- One step. The inbox says which agent moves next, so every interleaving of host accesses with the completion is some
inbox (40_command_cycle.md R138). -/
def step (s : State) : Host.Outcome State Fault Refusal :=
  match s.inbox with
  | [] => owedStep s
  | .coreTurn :: rest => coreTurn { s with inbox := rest }
  | .reset :: rest => .next (resetCore { s with inbox := rest })
  | .access a :: rest => hostTurn a rest s

/-- The state with the instruction whose low `nbits` bits are those of `w` where `step` takes its next instruction from:
accepted into CMD (R130; nothing is fetched from memory, 00_scope.md R2), with the core's turn next. -/
def State.withFetchWord (s : State) (nbits w : Nat) : State :=
  withCommandNext (BitVec.ofNat 32 (w % 2 ^ nbits)) s

end Sys2Proof.Machine
end

