-- ==== Sys2Proof/Safety.lean ====
section
/-! DEFINITION. What claims call a good state: the invariant every step keeps, quiescence and the end of a run
(40_command_cycle.md R142), the chunk's CRC condition (10_state.md R41), and commands executed one after another. -/

namespace Sys2Proof.Machine

/-- The invariant of the machine. It rules out the states that the spec says do not exist. -/
structure State.Inv (s : State) : Prop where
  /-- BUF_ADDR_BITS has a legal value (R7). -/
  cfg_legal : s.cfg.wellFormed = true
  /-- BUF is in its canonical form. -/
  buf_canonical : Memory.wf s.buf = true
  /-- Every written offset is an offset of BUF (R45). -/
  buf_inside : Memory.below s.buf s.bufSize = true
  /-- ERR is 1 if and only if ERR_CODE is not 0 (R25). -/
  err_iff_code : s.err = (s.errCode != .ok)
  /-- UTF8_DECODE is never written (R251). -/
  never_utf8 : s.errCode ≠ .utf8Decode
  /-- While BUSY = 1, DONE = 0 (R137). -/
  busy_not_done : s.busy = true → s.done = false
  /-- A valid descriptor's payload lies inside BUF (R41). -/
  payload_inside : s.chValid = true → s.chPayloadOff.toNat + s.chLen.toNat ≤ s.bufSize
  /-- Only an access of the stalling kind stands stalled (R136). -/
  stalled_kind : ∀ a, s.stalled = some a → stallable s.cfg a = true

/-- The core is quiescent (R142). -/
def State.quiescent (s : State) : Bool := !s.busy

/-- The host is still to make this entry of the inbox. -/
def isHostAccess (e : Event) : Bool :=
  match e with
  | .access _ => true
  | .coreTurn => false
  | .reset => false

/-- A run is over (R142): the host has issued its last access, so none is left in the inbox, the core is quiescent and no
access is stalled. -/
def State.runOver (s : State) : Bool := !s.inbox.any isHostAccess && s.quiescent && s.stalled.isNone

/-- The second condition of R41: the descriptor's CRC is that of its type and of the payload bytes BUF holds now. -/
def State.chunkCrcHolds (s : State) : Prop :=
  s.chValid = true →
    s.chCrc = crc32 (be32 s.chType ++ bufRead s s.chPayloadOff.toNat s.chLen.toNat)

/-- The status bits a successful completion leaves (R133), everything else as it was. -/
def succeeded (s : State) : State := { s with errCode := .ok, err := false, busy := false, done := true }

/-- The status bits a failing completion leaves (R133), everything else as it was (60_exceptions.md R256). -/
def failedWith (e : ErrCode) (s : State) : State := { s with errCode := e, err := true, busy := false, done := true }

/-- The big-endian number in the four bytes of BUF from offset `a`, by the formula of 00_scope.md R11. -/
def numberAt (s : State) (a : Nat) : Nat :=
  (bufByte s a).toNat * 2 ^ 24 + (bufByte s (a + 1)).toNat * 2 ^ 16 + (bufByte s (a + 2)).toNat * 2 ^ 8 +
    (bufByte s (a + 3)).toNat

/-- The code range of an ASCII letter (42_chunk_type.md R174), on the number a byte stands for. -/
def letterCode (b : Nat) : Prop := (0x41 ≤ b ∧ b ≤ 0x5A) ∨ (0x61 ≤ b ∧ b ≤ 0x7A)

/-- Commands completed one after another, with no host access in between. -/
def execAll : List Instr → State → Host.Outcome State Fault Refusal
  | [], s => .next s
  | i :: is, s =>
    match exec i s with
    | .next t => execAll is t
    | .fault f => .fault f
    | .refused r => .refused r

/-- The bytes a command feeds to the CRC generator: IMM8 for CRC_BYTE (41_crc.md R155), the source range for CRC_BUF
(R156). -/
def bytesFed (s : State) (i : Instr) : List Byte :=
  match i with
  | .crcByte b => [b]
  | .crcBuf => srcBytes s
  | .nop => []
  | .crcInit => []
  | .typeLoadStr => []
  | .chunkNew => []
  | .chunkParse => []
  | .chunkEmit => []

/-- The state a `next` outcome holds. -/
def stateAfter (o : Host.Outcome State Fault Refusal) : Option State :=
  match o with
  | .next t => some t
  | .fault _ => none
  | .refused _ => none

end Sys2Proof.Machine
end

