-- ==== Sys2Proof/Certificates/Slice0/Obligations.lean ====
section
/-! DEFINITION. The statements about the model, in the order of OBLIGATIONS.json. Each says which rule of spec/ it
formalises; none is proved here. -/

open Sys2Proof Sys2Proof.Machine

/-! ### Commands and their words -/

/-- 30_encoding.md R103: words of the opcode map, written out. -/
def Obligations.DecodeReadsTheCommandWords : Prop :=
  decode 0x00000000#32 = .ok .nop ∧ decode 0x00000001#32 = .ok .crcInit ∧
  decode 0x00003102#32 = .ok (.crcByte 0x31#8) ∧ decode 0x00000003#32 = .ok .crcBuf ∧
  decode 0x00000008#32 = .ok .typeLoadStr ∧ decode 0x00000010#32 = .ok .chunkNew ∧
  decode 0x00000011#32 = .ok .chunkParse ∧ decode 0x00000012#32 = .ok .chunkEmit

/-- 30_encoding.md R100, R103, R104: decoding an encoded command gives it back, with every value of IMM8, and a word
that decodes is the encoding of its command. -/
def Obligations.DecodeAndEncodeAgree : Prop :=
  (∀ i : Instr, i.wellFormed = true → decode (encode i) = .ok i) ∧
  (∀ (w : Word) (i : Instr), decode w = .ok i → encode i = w)

/-- 30_encoding.md R104, on the word as a number: the three conditions of legality, the command that OPC names, and the
life of an illegal word: it is accepted, it completes with ILLEGAL_COMMAND, and nothing but STATUS changes. -/
def Obligations.LegalityDecidesTheOutcome : Prop :=
  ∀ w : Word,
    let legal : Prop :=
      w.toNat % 256 ∈ [0x00, 0x01, 0x02, 0x03, 0x08, 0x10, 0x11, 0x12] ∧ w.toNat / 65536 = 0 ∧
        (w.toNat / 256 % 256 = 0 ∨ w.toNat % 256 = 0x02)
    (legal ↔ ∃ i, decode w = .ok i) ∧
    (∀ i, decode w = .ok i → i.opcode.toNat = w.toNat % 256) ∧
    (∀ (s : State) (rest : List Event), ¬legal → s.busy = false → s.stalled = none →
      s.inbox = .access ⟨.registers, 0x04, 32, .write w⟩ :: rest →
      step s = .next { s with cmd := w, busy := true, done := false, inbox := rest,
                              replies := .accepted :: s.replies }) ∧
    (∀ (s : State) (rest : List Event), ¬legal → s.busy = true → s.cmd = w → s.inbox = .coreTurn :: rest →
      step s = .next (failedWith .illegalCommand { s with inbox := rest }))

/-- 30_encoding.md R104, the match and mask table: the row of the decoded command matches the word, a word that matches
a row decodes, and a word matches at most one row. -/
def Obligations.MatchMaskTableAgreesWithDecoder : Prop :=
  ∀ w : Word,
    (∀ i, decode w = .ok i → i.row ∈ opcodeRows ∧ w &&& i.row.mask = i.row.matchBits) ∧
    (∀ r ∈ opcodeRows, w &&& r.mask = r.matchBits → ∃ i, decode w = .ok i ∧ i.row = r) ∧
    (∀ r ∈ opcodeRows, ∀ q ∈ opcodeRows,
      w &&& r.mask = r.matchBits → w &&& q.mask = q.matchBits → r = q)

/-! ### The command cycle -/

/-- 40_command_cycle.md R132: while BUSY = 1, a step of the core is the command that CMD holds, and for an illegal word the
completion with ILLEGAL_COMMAND. The core's step comes when the inbox says so, when the inbox is empty, and when the host
waits behind a stalled access: that the last two are the completion is the model's choice (notes/assumptions/3.md). -/
def Obligations.StepRunsTheDecodedCommand : Prop :=
  (∀ (s : State) (i : Instr), s.busy = true → decode s.cmd = .ok i →
    (∀ rest, s.inbox = .coreTurn :: rest → step s = exec i { s with inbox := rest }) ∧
    (s.inbox = [] → step s = exec i s) ∧
    (∀ a rest b, s.inbox = .access a :: rest → s.stalled = some b → step s = exec i s)) ∧
  (∀ s : State, s.busy = true → (∀ i, decode s.cmd ≠ .ok i) →
    (∀ rest, s.inbox = .coreTurn :: rest → step s = .next (failedWith .illegalCommand { s with inbox := rest })) ∧
    (s.inbox = [] → step s = .next (failedWith .illegalCommand s)) ∧
    (∀ a rest b, s.inbox = .access a :: rest → s.stalled = some b → step s = .next (failedWith .illegalCommand s)))

/-- 40_command_cycle.md R130: a host write to CMD when BUSY = 0 is accepted, whatever the word; ERR, ERR_CODE and OVR
keep their values, and IRQ drops. -/
def Obligations.CmdWriteWhenIdleIsAccepted : Prop :=
  ∀ (s : State) (w : Word) (rest : List Event), s.busy = false → s.stalled = none →
    s.inbox = .access ⟨.registers, 0x04, 32, .write w⟩ :: rest →
    ∃ t, step s = .next t ∧
      t = { s with cmd := w, busy := true, done := false, inbox := rest, replies := .accepted :: s.replies } ∧
      irq t = false ∧ (statusWord t).getLsbD 0 = true ∧ (statusWord t).getLsbD 1 = false

/-- 40_command_cycle.md R135: a host write to CMD while BUSY = 1 is dropped, is not stalled, and sets OVR alone. That the
bus answers the dropped write as accepted is the model's choice (notes/assumptions/15.md). -/
def Obligations.CmdWriteWhileBusyOnlySetsOverrun : Prop :=
  ∀ (s : State) (w : Word) (rest : List Event), s.busy = true → s.stalled = none →
    s.inbox = .access ⟨.registers, 0x04, 32, .write w⟩ :: rest →
    step s = .next { s with ovr := true, inbox := rest, replies := .accepted :: s.replies }

/-- 40_command_cycle.md R136, the accesses named by window, offset and width: which accesses stall while BUSY = 1, that
a stalled access waits for the completion and is then performed as written, and that no other access stalls. Which step
comes while an access is stalled is the model's choice (notes/assumptions/3.md): with an empty inbox, or with an access at
its head, it is the completion if BUSY = 1 and the stalled access if BUSY = 0. -/
def Obligations.AccessesStallExactlyWhileBusy : Prop :=
  (∀ (s : State) (a : HostAccess) (rest : List Event), s.stalled = none → s.inbox = .access a :: rest →
    let wide : Prop := a.width = 32 ∧ a.offset % 4 = 0
    let operandWrite : Prop := a.window = .registers ∧ wide ∧ (∃ v, a.kind = .write v) ∧
      a.offset ∈ [0x10, 0x18, 0x1C, 0x20, 0x24, 0x28]
    let bufferAccess : Prop := a.window = .buffer ∧ a.offset + a.width / 8 ≤ s.bufSize ∧
      (a.width = 8 ∨ (a.width = 16 ∧ a.offset % 2 = 0) ∨ wide)
    (s.busy = true → operandWrite ∨ bufferAccess →
      step s = .next { s with stalled := some a, inbox := rest }) ∧
    (s.busy = false ∨ ¬(operandWrite ∨ bufferAccess) →
      step s = .next (performAccess a { s with inbox := rest }))) ∧
  (∀ (s : State) (a : HostAccess), s.stalled = some a → s.busy = false →
    (s.inbox = [] ∨ ∃ b rest, s.inbox = .access b :: rest) →
    step s = .next (performAccess a { s with stalled := none })) ∧
  (∀ (s t : State) (a : HostAccess), s.stalled = some a → s.busy = true → (∀ rest, s.inbox ≠ .reset :: rest) →
    step s = .next t → t.busy = false ∧ t.stalled = some a)

/-- 40_command_cycle.md R132, R133: a turn of the core is enabled exactly when BUSY = 1; it is the outcome of the command
that CMD holds, ILLEGAL_COMMAND with no writes for an illegal word; it writes ERR, BUSY and DONE with ERR_CODE, and
leaves OVR. The completions without a turn at the head of the inbox are in StepRunsTheDecodedCommand. -/
def Obligations.CompletionTakesTheOutcomeOfCmd : Prop :=
  ∀ (s : State) (rest : List Event), s.inbox = .coreTurn :: rest →
    (s.busy = false → step s = .next { s with inbox := rest }) ∧
    (s.busy = true →
      (∀ i, decode s.cmd = .ok i → step s = exec i { s with inbox := rest }) ∧
      ((∀ i, decode s.cmd ≠ .ok i) → step s = .next (failedWith .illegalCommand { s with inbox := rest })) ∧
      ∀ t, step s = .next t →
        t.busy = false ∧ t.done = true ∧ (t.err = true ↔ t.errCode ≠ .ok) ∧ t.ovr = s.ovr)

/-- 40_command_cycle.md R131, R134, R136, R137: as long as the command in flight has not completed, no step changes CMD,
any register a command reads or writes, or any byte of BUF. -/
def Obligations.NothingACommandUsesChangesBeforeCompletion : Prop :=
  ∀ s t : State, s.busy = true → step s = .next t → t.busy = true →
    t.cmd = s.cmd ∧ t.crcState = s.crcState ∧ t.srcOff = s.srcOff ∧ t.srcLen = s.srcLen ∧ t.dstOff = s.dstOff ∧
    t.typeReg = s.typeReg ∧ t.typeB = s.typeB ∧ t.chLen = s.chLen ∧ t.chType = s.chType ∧
    t.chPayloadOff = s.chPayloadOff ∧ t.chCrc = s.chCrc ∧ t.chValid = s.chValid ∧ t.crcStored = s.crcStored ∧
    t.crcComputed = s.crcComputed ∧ t.outLen = s.outLen ∧ t.errCode = s.errCode ∧ t.err = s.err ∧
    ∀ a, bufByte t a = bufByte s a

/-- 40_command_cycle.md R138: from every good state with BUSY = 1, whatever the environment still owes, the command is
over after at most one step more than the inbox has entries. That the step with an empty inbox is the completion, which is
the one step more, is the model's choice (notes/assumptions/3.md). -/
def Obligations.BusyCoreCompletesWithinTheInbox : Prop :=
  ∀ s : State, s.Inv → s.busy = true →
    ∃ k ≤ s.inbox.length + 1, ∃ t : State, Host.Core.run Sys2Proof.core k s = .next t ∧ t.busy = false

/-- The invariant of Sys2Proof/Safety.lean (R7, R25, R41, R45, R136, R137, R251) is kept by every step. -/
def Obligations.StepKeepsTheInvariant : Prop :=
  ∀ s t : State, s.Inv → step s = .next t → t.Inv

/-- The invariant holds after reset, in every legal configuration and for every RESET_BUF. -/
def Obligations.ResetSatisfiesTheInvariant : Prop :=
  State.reset.Inv ∧ ∀ (c : Config) (k : Nat), c.wellFormed = true → (State.afterReset c k).Inv

/-- 60_exceptions.md R252, R256: no error stops the machine. In a good state every step answers a next state. -/
def Obligations.GoodStatesNeverStop : Prop :=
  ∀ s : State, s.Inv → ∃ t, step s = .next t

/-- 00_scope.md R7: no step changes the configuration. -/
def Obligations.StepKeepsTheConfiguration : Prop :=
  ∀ s t : State, step s = .next t → t.cfg = s.cfg

/-- 40_command_cycle.md R142, 60_exceptions.md R268: once a run is over, every step answers a next state in which it is
over still; no step but a reset changes the core, which only uses up what is left of the inbox. -/
def Obligations.RunThatIsOverStaysOver : Prop :=
  ∀ s : State, s.runOver = true →
    ∃ t, step s = .next t ∧ t.runOver = true ∧ (t = { s with inbox := t.inbox } ∨ ∃ rest, s.inbox = .reset :: rest)

/-! ### Reset -/

/-- 70_reset_and_hazards.md R280: what reset leaves, read through the register window. BUF is RESET_BUF, a free value of
the model (notes/assumptions/2.md). -/
def Obligations.ResetLeavesTheResetValues : Prop :=
  ∀ (c : Config) (k : Nat),
    let s := State.afterReset c k
    s.busy = false ∧ s.stalled = none ∧ irq s = false ∧
    (∀ o ∈ [0x04, 0x08, 0x0C, 0x14, 0x18, 0x1C, 0x20, 0x24, 0x28, 0x30, 0x34, 0x38, 0x3C, 0x40, 0x44, 0x48, 0x4C],
      readWindow s o = 0x00000000#32) ∧
    readWindow s 0x00 = 0x504E4743#32 ∧ readWindow s 0x10 = 0xFFFFFFFF#32 ∧ readWindow s 0x2C = 0x00030707#32 ∧
    ∀ o, bufByte s o = Config.resetBuf k o

/-- 70_reset_and_hazards.md R282: a reset abandons the command in flight and the stalled access; the state after it is
that of R280, with BUF a new RESET_BUF. That the rest of the inbox and the replies already given stay is the model's
choice (notes/assumptions/6.md), as is the reset count that selects RESET_BUF (notes/assumptions/2.md). -/
def Obligations.ResetAbandonsCommandAndStalledAccess : Prop :=
  ∀ (s : State) (rest : List Event), s.inbox = .reset :: rest →
    ∃ t, step s = .next t ∧
      t = { State.afterReset s.cfg (s.resets + 1) with inbox := rest, replies := s.replies } ∧
      t.busy = false ∧ t.stalled = none ∧ t.cmd = 0#32 ∧ ∀ o, bufByte t o = Config.resetBuf (s.resets + 1) o

/-! ### The host's accesses -/

/-- 20_memory.md R72, R73: the accesses the core admits; every other access gets a bus error and changes no state, whether
or not the core is busy; an admitted one never gets a bus error: at once if the core is idle or the access does not stall
(40_command_cycle.md R136), and whenever it is performed. -/
def Obligations.BusErrorExactlyForOtherAccesses : Prop :=
  ∀ (s : State) (a : HostAccess) (rest : List Event), s.stalled = none → s.inbox = .access a :: rest →
    let admitted : Prop :=
      (a.window = .registers ∧ a.width = 32 ∧ a.offset % 4 = 0 ∧ a.offset + 4 ≤ 256) ∨
      (a.window = .buffer ∧ a.width = 8 ∧ a.offset + 1 ≤ s.bufSize) ∨
      (a.window = .buffer ∧ a.width = 16 ∧ a.offset % 2 = 0 ∧ a.offset + 2 ≤ s.bufSize) ∨
      (a.window = .buffer ∧ a.width = 32 ∧ a.offset % 4 = 0 ∧ a.offset + 4 ≤ s.bufSize)
    (¬admitted → step s = .next { s with inbox := rest, replies := .busError :: s.replies }) ∧
    (admitted →
      (s.busy = true → a.window = .registers ∧
        ∀ v, a.kind = .write v → a.offset ∉ [0x10, 0x18, 0x1C, 0x20, 0x24, 0x28]) →
      ∃ t r, step s = .next t ∧ t.replies = r :: s.replies ∧ r ≠ .busError) ∧
    (admitted → ∃ r, (performAccess a s).replies = r :: s.replies ∧ r ≠ .busError)

/-- 40_command_cycle.md R141: the value a host read of each register returns, the derived ones computed from the current
values, with reserved bits 0; a reserved offset reads 0; and the read changes no state. -/
def Obligations.HostReadReturnsTheRegister : Prop :=
  ∀ s : State, (∀ p ∈
    [(0x00, 0x504E4743#32), (0x04, s.cmd), (0x08, statusWord s), (0x0C, if s.ie then 1#32 else 0#32),
     (0x10, s.crcState), (0x14, s.crcState ^^^ 0xFFFFFFFF#32), (0x18, s.srcOff), (0x1C, s.srcLen), (0x20, s.dstOff),
     (0x24, s.typeReg), (0x28, s.typeB), (0x2C, typeFlags s), (0x30, s.chLen), (0x34, s.chType),
     (0x38, s.chPayloadOff), (0x3C, s.chCrc), (0x40, if s.chValid then 1#32 else 0#32), (0x44, s.crcStored),
     (0x48, s.crcComputed), (0x4C, s.outLen)],
    performAccess ⟨.registers, p.1, 32, .read⟩ s = { s with replies := .data p.2 :: s.replies }) ∧
  (∀ o, 0x50 ≤ o → o ≤ 0xFC → o % 4 = 0 →
    performAccess ⟨.registers, o, 32, .read⟩ s = { s with replies := .data 0#32 :: s.replies }) ∧
  statusWord s &&& 0xFFFF00F0#32 = 0#32 ∧ typeFlags s &&& 0xFFFCC0C0#32 = 0#32

/-- 20_memory.md R79: a host read, of any width and at any offset, changes nothing but what it returns. -/
def Obligations.HostReadsHaveNoSideEffects : Prop :=
  ∀ (s : State) (w : Window) (offset width : Nat), ∃ r,
    performAccess ⟨w, offset, width, .read⟩ s = { s with replies := r :: s.replies }

/-- 40_command_cycle.md R140: what a 32-bit host write does at each offset of the register window. That the bus answers a
dropped or ignored write as accepted is the model's choice (notes/assumptions/15.md). -/
def Obligations.HostWriteStoresItsRegister : Prop :=
  ∀ (s : State) (v : Word) (o : Nat), o % 4 = 0 → o + 4 ≤ 256 →
    let after := performAccess ⟨.registers, o, 32, .write v⟩ s
    let r := Reply.accepted :: s.replies
    (o = 0x04 → s.busy = false → after = { s with cmd := v, busy := true, done := false, replies := r }) ∧
    (o = 0x04 → s.busy = true → after = { s with ovr := true, replies := r }) ∧
    (o = 0x08 → after = { s with done := s.done && !v.getLsbD 1, ovr := s.ovr && !v.getLsbD 3, replies := r }) ∧
    (o = 0x0C → after = { s with ie := v.getLsbD 0, replies := r }) ∧
    (o = 0x10 → after = { s with crcState := v, replies := r }) ∧
    (o = 0x18 → after = { s with srcOff := v, replies := r }) ∧
    (o = 0x1C → after = { s with srcLen := v, replies := r }) ∧
    (o = 0x20 → after = { s with dstOff := v, replies := r }) ∧
    (o = 0x24 → after = { s with typeReg := v, replies := r }) ∧
    (o = 0x28 → after = { s with typeB := v, replies := r }) ∧
    (o ∉ [0x04, 0x08, 0x0C, 0x10, 0x18, 0x1C, 0x20, 0x24, 0x28] → after = { s with replies := r })

/-- 10_state.md R44: a host write to an RO register is ignored, never stalls and raises no error, whether or not the
core is busy. That the bus answers it as accepted is the model's choice (notes/assumptions/15.md). -/
def Obligations.ReadOnlyRegisterWritesAreIgnored : Prop :=
  ∀ (s : State) (v : Word) (rest : List Event), ∀ o ∈ [0x00, 0x14, 0x2C, 0x30, 0x34, 0x38, 0x3C, 0x40, 0x44, 0x48, 0x4C],
    s.stalled = none → s.inbox = .access ⟨.registers, o, 32, .write v⟩ :: rest →
    step s = .next { s with inbox := rest, replies := .accepted :: s.replies }

/-- 10_state.md R25: a host write to STATUS clears DONE for a 1 in bit 1 and OVR for a 1 in bit 3, and nothing else, even
while BUSY = 1 (R26). -/
def Obligations.StatusWriteClearsOnlyDoneAndOverrun : Prop :=
  ∀ (s : State) (v : Word) (rest : List Event), s.stalled = none →
    s.inbox = .access ⟨.registers, 0x08, 32, .write v⟩ :: rest →
    ∃ t, step s = .next t ∧
      t = { s with done := t.done, ovr := t.ovr, inbox := rest, replies := .accepted :: s.replies } ∧
      (t.done = true ↔ s.done = true ∧ v.toNat / 2 % 2 = 0) ∧ (t.ovr = true ↔ s.ovr = true ∧ v.toNat / 8 % 2 = 0)

/-- 10_state.md R25, 60_exceptions.md R250: the bits of STATUS, with the code of each error. -/
def Obligations.StatusWordLayout : Prop :=
  ∀ s : State,
    (statusWord s).getLsbD 0 = s.busy ∧ (statusWord s).getLsbD 1 = s.done ∧ (statusWord s).getLsbD 2 = s.err ∧
    (statusWord s).getLsbD 3 = s.ovr ∧ (statusWord s).toNat / 16 % 16 = 0 ∧ (statusWord s).toNat / 65536 = 0 ∧
    ∀ p ∈ [(ErrCode.ok, 0x00), (.tooShort, 0x01), (.truncated, 0x02), (.crcMismatch, 0x03), (.invalidChunkType, 0x04),
           (.utf8Decode, 0x05), (.illegalCommand, 0x10), (.range, 0x11), (.overlap, 0x12), (.noChunk, 0x13)],
      s.errCode = p.1 → (statusWord s).toNat / 256 % 256 = p.2

/-- 20_memory.md R74: host accesses to BUF use little-endian lanes. A write stores the bytes of its value, the low byte
first, and leaves every other byte; a read returns them in the same order. -/
def Obligations.BufferAccessesAreLittleEndian : Prop :=
  ∀ (s : State) (o n : Nat) (v : Word), n ∈ [1, 2, 4] → o % n = 0 → o + n ≤ s.bufSize →
    (∃ t, performAccess ⟨.buffer, o, 8 * n, .write v⟩ s = t ∧
      t = { s with buf := t.buf, replies := .accepted :: s.replies } ∧
      (∀ k < n, (bufByte t (o + k)).toNat = v.toNat / 256 ^ k % 256) ∧
      ∀ a, (a < o ∨ o + n ≤ a) → bufByte t a = bufByte s a) ∧
    (∃ d : Word, performAccess ⟨.buffer, o, 8 * n, .read⟩ s = { s with replies := .data d :: s.replies } ∧
      (∀ k < n, d.toNat / 256 ^ k % 256 = (bufByte s (o + k)).toNat) ∧ d.toNat < 256 ^ n)

/-- 20_memory.md R76: a host 32-bit read of a big-endian field of BUF returns the byte-reversed value. -/
def Obligations.BigEndianFieldsReadByteReversed : Prop :=
  ∀ (s : State) (o : Nat) (v : Word), o % 4 = 0 → o + 4 ≤ s.bufSize → numberAt s o = v.toNat →
    ∃ d : Word, performAccess ⟨.buffer, o, 32, .read⟩ s = { s with replies := .data d :: s.replies } ∧
      be32 d = (be32 v).reverse

/-- 60_exceptions.md R260: IRQ is IE and DONE; a completion with IE = 1 asserts it, whether it succeeds or fails; a
write of 1 to STATUS bit 1, an acceptance, IE written 0 and a reset each deassert it, IE written 1 while DONE = 1
asserts it, and an overrun leaves it. -/
def Obligations.InterruptFollowsEnableAndDone : Prop :=
  (∀ s : State, irq s = true ↔ s.ie = true ∧ s.done = true) ∧
  (∀ (s t : State) (rest : List Event), s.busy = true → s.ie = true → s.inbox = .coreTurn :: rest →
    step s = .next t → irq t = true) ∧
  (∀ (s : State) (v : Word), v.getLsbD 1 = true →
    irq (performAccess ⟨.registers, 0x08, 32, .write v⟩ s) = false) ∧
  (∀ (s : State) (w : Word), s.busy = false → irq (performAccess ⟨.registers, 0x04, 32, .write w⟩ s) = false) ∧
  (∀ (s : State) (v : Word),
    irq (performAccess ⟨.registers, 0x0C, 32, .write v⟩ s) = (v.getLsbD 0 && s.done)) ∧
  (∀ s : State, irq (resetCore s) = false) ∧
  (∀ (s : State) (w : Word), s.busy = true →
    irq (performAccess ⟨.registers, 0x04, 32, .write w⟩ s) = irq s)

/-! ### NOP and the CRC commands -/

/-- 40_command_cycle.md R139: NOP completes OK with no other effect, from every state; its only word is 0x00000000, and
every other word with OPC = 0x00 is illegal. -/
def Obligations.NopOnlyCompletes : Prop :=
  (∀ w : Word, decode w = .ok .nop ↔ w = 0x00000000#32) ∧
  (∀ w : Word, w.toNat % 256 = 0x00 → w ≠ 0x00000000#32 → ∃ e, decode w = .error e) ∧ ∀ s : State, exec .nop s = .next (succeeded s)

/-- 41_crc.md R154: CRC_INIT sets CRC_STATE to 0xFFFFFFFF, and CRC_RESULT reads 0 afterwards; its only word is
0x00000001. -/
def Obligations.CrcInitSetsTheInitialValue : Prop :=
  (∀ w : Word, decode w = .ok .crcInit ↔ w = 0x00000001#32) ∧
  ∀ s : State, ∃ t, exec .crcInit s = .next t ∧ t = succeeded { s with crcState := 0xFFFFFFFF#32 } ∧
    readWindow t 0x14 = 0x00000000#32

/-- 41_crc.md R155: CRC_BYTE feeds its immediate byte to the generator, every byte value alike; its word is
`0x0000bb02`; a word with a non-zero reserved field is illegal, and completing it leaves CRC_STATE. The last line is the
rule's corner case and example. -/
def Obligations.CrcByteFeedsItsImmediate : Prop :=
  (∀ (w : Word) (b : Byte), decode w = .ok (.crcByte b) ↔ w.toNat = b.toNat * 256 + 2) ∧
  (∀ (s : State) (b : Byte), exec (.crcByte b) s = .next (succeeded { s with crcState := crcStep s.crcState b })) ∧
  (∀ (s t : State) (rest : List Event), s.busy = true → s.cmd.toNat % 256 = 0x02 → s.inbox = .coreTurn :: rest →
    step s = .next t →
    (s.cmd.toNat / 65536 = 0 → t.errCode = .ok ∧ t.crcState = crcStep s.crcState (BitVec.ofNat 8 (s.cmd.toNat / 256))) ∧
    (s.cmd.toNat / 65536 ≠ 0 → t.errCode = .illegalCommand ∧ t.crcState = s.crcState)) ∧
  crcStep 0xFFFFFFFF#32 0x00#8 = 0x2DFD1072#32 ∧ crcStep 0xFFFFFFFF#32 0x31#8 = 0x7C231048#32

/-- 41_crc.md R156: CRC_BUF folds the source range into CRC_STATE, or completes with RANGE and leaves CRC_STATE;
its only word is 0x00000003. -/
def Obligations.CrcBufFoldsTheSourceRange : Prop :=
  (∀ w : Word, decode w = .ok .crcBuf ↔ w = 0x00000003#32) ∧
  ∀ s : State,
    (s.srcOff.toNat + s.srcLen.toNat ≤ s.bufSize →
      exec .crcBuf s = .next (succeeded
        { s with crcState := crcFold s.crcState (bufRead s s.srcOff.toNat s.srcLen.toNat) })) ∧
    (s.bufSize < s.srcOff.toNat + s.srcLen.toNat → exec .crcBuf s = .next (failedWith .range s))

/-- 41_crc.md R150: the check value and the residue. -/
def Obligations.CrcCheckValueAndResidue : Prop :=
  let digits : List Byte := [0x31, 0x32, 0x33, 0x34, 0x35, 0x36, 0x37, 0x38, 0x39]
  crc32 [] = 0x00000000#32 ∧ crc32 digits = 0xCBF43926#32 ∧
  crcFold 0xFFFFFFFF#32 (digits ++ [0x26, 0x39, 0xF4, 0xCB]) = 0xDEBB20E3#32

/-- 41_crc.md R151: a table-driven implementation gives the same byte step for every register value and byte. -/
def Obligations.TableDrivenByteStepAgrees : Prop :=
  ∀ (c : Word) (b : Byte), crcStep c b = crcStep 0#32 (c.setWidth 8 ^^^ b) ^^^ (c >>> 8)

/-- 41_crc.md R153(c): changing any single bit of a byte sequence changes its CRC. -/
def Obligations.CrcChangesWithEverySingleBit : Prop :=
  ∀ (xs ys : List Byte) (b : Byte) (j : Nat), j < 8 →
    crc32 (xs ++ b :: ys) ≠ crc32 (xs ++ (b ^^^ (1#8 <<< j)) :: ys)

/-- 41_crc.md R153(a), R157: after CRC_INIT, any list of CRC_BYTE and CRC_BUF commands, in any order, leaves CRC_RESULT
reading the CRC of the bytes they feed one after another. The source range is the same for every CRC_BUF of the list. -/
def Obligations.CrcResultIsTheCrcOfTheBytesFed : Prop :=
  ∀ (s : State) (cs : List Instr), (∀ i ∈ cs, i = .crcBuf ∨ ∃ b, i = .crcByte b) →
    (.crcBuf ∈ cs → s.srcOff.toNat + s.srcLen.toNat ≤ s.bufSize) →
    ∃ t, execAll (.crcInit :: cs) s = .next t ∧ t.errCode = .ok ∧
      readWindow t 0x14 = crc32 (cs.flatMap (bytesFed s))

/-- 10_state.md R28: CRC_STATE changes only in the completion of CRC_INIT, CRC_BYTE or CRC_BUF, in a host write to it,
and in reset. -/
def Obligations.CrcStateChangesOnlyByItsWriters : Prop :=
  ∀ s t : State, step s = .next t → t.crcState ≠ s.crcState →
    (s.busy = true ∧ ∃ i, decode s.cmd = .ok i ∧ (i = .crcInit ∨ (∃ b, i = .crcByte b) ∨ i = .crcBuf)) ∨
    (s.busy = false ∧ ∃ v, t.crcState = v ∧
      ((∃ rest, s.stalled = none ∧ s.inbox = .access ⟨.registers, 0x10, 32, .write v⟩ :: rest) ∨
        s.stalled = some ⟨.registers, 0x10, 32, .write v⟩)) ∨
    ∃ rest, s.inbox = .reset :: rest

/-- 41_crc.md R152: TYPE_LOAD_STR and the chunk commands neither read nor write CRC_STATE: another value of it changes
nothing else of their outcome. -/
def Obligations.ChunkCommandsIgnoreCrcState : Prop :=
  ∀ (s t : State) (c : Word), ∀ i ∈ [Instr.typeLoadStr, .chunkNew, .chunkParse, .chunkEmit],
    exec i s = .next t →
    t.crcState = s.crcState ∧ exec i { s with crcState := c } = .next { t with crcState := c }

/-! ### The chunk type -/

/-- 10_state.md R33, 42_chunk_type.md R170 to R177: every bit of TYPE_FLAGS, from the bits and byte values of TYPE,
CH_TYPE and TYPE_B; and the reset reading, with all three 0. -/
def Obligations.TypeFlagsBits : Prop :=
  ∀ s : State,
    let f := readWindow s 0x2C
    let letters : Word → Prop := fun t =>
      letterCode (t.toNat / 2 ^ 24) ∧ letterCode (t.toNat / 2 ^ 16 % 256) ∧ letterCode (t.toNat / 2 ^ 8 % 256) ∧
        letterCode (t.toNat % 256)
    (∀ p ∈ [(0, s.typeReg), (8, s.chType)],
      (f.getLsbD p.1 = true ↔ p.2.getLsbD 29 = false) ∧
      (f.getLsbD (p.1 + 1) = true ↔ p.2.getLsbD 21 = false) ∧
      (f.getLsbD (p.1 + 2) = true ↔ p.2.getLsbD 13 = false) ∧
      (f.getLsbD (p.1 + 3) = true ↔ p.2.getLsbD 5 = true) ∧
      (f.getLsbD (p.1 + 4) = true ↔ letters p.2) ∧
      (f.getLsbD (p.1 + 5) = true ↔ letters p.2 ∧ p.2.getLsbD 13 = false) ∧
      f.getLsbD (p.1 + 6) = false ∧ f.getLsbD (p.1 + 7) = false) ∧
    (f.getLsbD 16 = true ↔ s.typeReg = s.typeB) ∧ (f.getLsbD 17 = true ↔ s.chType = s.typeB) ∧
    (∀ i, 18 ≤ i → f.getLsbD i = false) ∧
    (s.typeReg = 0#32 → s.chType = 0#32 → s.typeB = 0#32 → f = 0x00030707#32)

/-- 42_chunk_type.md R180: TYPE_LOAD_STR, its checks in order, the type it loads, and that a failure leaves TYPE;
its only word is 0x00000008. -/
def Obligations.TypeLoadStrOutcome : Prop :=
  (∀ w : Word, decode w = .ok .typeLoadStr ↔ w = 0x00000008#32) ∧
  ∀ s : State,
    let o := s.srcOff.toNat
    let letters : Prop := ∀ k < 4, letterCode (bufByte s (o + k)).toNat
    (s.bufSize < o + s.srcLen.toNat → exec .typeLoadStr s = .next (failedWith .range s)) ∧
    (o + s.srcLen.toNat ≤ s.bufSize → s.srcLen.toNat < 4 →
      exec .typeLoadStr s = .next (failedWith .invalidChunkType s)) ∧
    (o + s.srcLen.toNat ≤ s.bufSize → 4 ≤ s.srcLen.toNat → ¬letters →
      exec .typeLoadStr s = .next (failedWith .invalidChunkType s)) ∧
    (o + s.srcLen.toNat ≤ s.bufSize → 4 ≤ s.srcLen.toNat → letters →
      exec .typeLoadStr s = .next (succeeded { s with typeReg := BitVec.ofNat 32 (numberAt s o) }))

/-! ### The chunk -/

/-- 43_chunk_frame.md R190: CHUNK_NEW makes the descriptor of the payload in BUF with its CRC, or completes with RANGE
and leaves the descriptor. TYPE is not validated, and nothing else changes. Its only word is 0x00000010. -/
def Obligations.ChunkNewOutcome : Prop :=
  (∀ w : Word, decode w = .ok .chunkNew ↔ w = 0x00000010#32) ∧
  ∀ s : State,
    (s.bufSize < s.srcOff.toNat + s.srcLen.toNat → exec .chunkNew s = .next (failedWith .range s)) ∧
    (s.srcOff.toNat + s.srcLen.toNat ≤ s.bufSize →
      exec .chunkNew s = .next (succeeded
        { s with chLen := s.srcLen, chType := s.typeReg, chPayloadOff := s.srcOff, chValid := true,
                 chCrc := crc32 (be32 s.typeReg ++ bufRead s s.srcOff.toNat s.srcLen.toNat) }))

/-- 43_chunk_frame.md R200: CHUNK_PARSE, its checks in step order on exact numbers, and the registers each outcome
writes; its only word is 0x00000011. -/
def Obligations.ChunkParseOutcome : Prop :=
  (∀ w : Word, decode w = .ok .chunkParse ↔ w = 0x00000011#32) ∧
  ∀ s : State,
    let o := s.srcOff.toNat
    let n := numberAt s o
    let stored : Word := BitVec.ofNat 32 (numberAt s (o + 8 + n))
    let computed : Word := crc32 (bufRead s (o + 4) (4 + n))
    (s.bufSize < o + s.srcLen.toNat → exec .chunkParse s = .next (failedWith .range s)) ∧
    (o + s.srcLen.toNat ≤ s.bufSize → s.srcLen.toNat < 12 →
      exec .chunkParse s = .next (failedWith .tooShort s)) ∧
    (o + s.srcLen.toNat ≤ s.bufSize → 12 ≤ s.srcLen.toNat → s.srcLen.toNat - 4 < n + 8 →
      exec .chunkParse s = .next (failedWith .truncated s)) ∧
    (o + s.srcLen.toNat ≤ s.bufSize → 12 ≤ s.srcLen.toNat → n + 8 ≤ s.srcLen.toNat - 4 → computed ≠ stored →
      exec .chunkParse s = .next (failedWith .crcMismatch { s with crcStored := stored, crcComputed := computed })) ∧
    (o + s.srcLen.toNat ≤ s.bufSize → 12 ≤ s.srcLen.toNat → n + 8 ≤ s.srcLen.toNat - 4 → computed = stored →
      exec .chunkParse s = .next (succeeded
        { s with crcStored := stored, crcComputed := computed, chLen := BitVec.ofNat 32 n,
                 chType := BitVec.ofNat 32 (numberAt s (o + 4)), chPayloadOff := BitVec.ofNat 32 (o + 8),
                 chCrc := stored, chValid := true, outLen := BitVec.ofNat 32 (12 + n) }))

/-- 43_chunk_frame.md R203: the boundaries of the two length errors. -/
def Obligations.ParseLengthBoundaries : Prop :=
  ∀ s : State, s.srcOff.toNat + s.srcLen.toNat ≤ s.bufSize →
    let n := numberAt s s.srcOff.toNat
    ∃ t, exec .chunkParse s = .next t ∧
      (s.srcLen.toNat = 11 → t.errCode = .tooShort) ∧
      (12 + n ≤ s.srcLen.toNat → t.errCode = .ok ∨ t.errCode = .crcMismatch) ∧
      (1 ≤ n → s.srcLen.toNat = 11 + n → t.errCode = .truncated) ∧
      (s.srcLen.toNat < 12 → t.errCode = .tooShort)

/-- 43_chunk_frame.md R205: a failing CHUNK_PARSE leaves the descriptor and OUT_LEN as they were. -/
def Obligations.FailedParseKeepsTheChunk : Prop :=
  ∀ s t : State, exec .chunkParse s = .next t → t.errCode ≠ .ok →
    t.chLen = s.chLen ∧ t.chType = s.chType ∧ t.chPayloadOff = s.chPayloadOff ∧ t.chCrc = s.chCrc ∧
    t.chValid = s.chValid ∧ t.outLen = s.outLen

/-- 43_chunk_frame.md R206, first case: if CHUNK_PARSE accepts a frame, then with any one bit of the type, the payload or
the CRC field flipped it completes with CRC_MISMATCH. -/
def Obligations.OneFlippedBitMakesParseFail : Prop :=
  ∀ (s s' t : State) (k j : Nat), exec .chunkParse s = .next t → t.errCode = .ok →
    s' = { s with buf := s'.buf } → 4 ≤ k → k < 12 + t.chLen.toNat → j < 8 →
    bufByte s' (s.srcOff.toNat + k) = bufByte s (s.srcOff.toNat + k) ^^^ (1#8 <<< j) →
    (∀ a, a ≠ s.srcOff.toNat + k → bufByte s' a = bufByte s a) →
    ∃ t', exec .chunkParse s' = .next t' ∧ t'.errCode = .crcMismatch

/-- 43_chunk_frame.md R210, R195: CHUNK_EMIT writes the frame at DST_OFF byte by byte, the payload as BUF holds it and
the CRC as the descriptor holds it; every other byte and every register but OUT_LEN and STATUS is unchanged. The payload
range lies in BUF by 10_state.md R41. Its only word is 0x00000012. -/
def Obligations.ChunkEmitWritesTheFrame : Prop :=
  (∀ w : Word, decode w = .ok .chunkEmit ↔ w = 0x00000012#32) ∧
  ∀ s : State,
    let d := s.dstOff.toNat
    let p := s.chPayloadOff.toNat
    let n := s.chLen.toNat
    s.chValid = true → p + n ≤ s.bufSize → d + 12 + n ≤ s.bufSize →
    ¬(0 < n ∧ p < d + 12 + n ∧ d < p + n ∧ p ≠ d + 8) →
    ∃ t, exec .chunkEmit s = .next t ∧
      t = succeeded { s with buf := t.buf, outLen := BitVec.ofNat 32 (12 + n) } ∧
      (∀ k < 4, (bufByte t (d + k)).toNat = n / 256 ^ (3 - k) % 256) ∧
      (∀ k < 4, (bufByte t (d + 4 + k)).toNat = s.chType.toNat / 256 ^ (3 - k) % 256) ∧
      (∀ k < n, bufByte t (d + 8 + k) = bufByte s (p + k)) ∧
      (∀ k < 4, (bufByte t (d + 8 + n + k)).toNat = s.chCrc.toNat / 256 ^ (3 - k) % 256) ∧
      ∀ a, (a < d ∨ d + 12 + n ≤ a) → bufByte t a = bufByte s a

/-- 43_chunk_frame.md R210, R211: the three refusals of CHUNK_EMIT in their order, each of which changes only STATUS. The
last clause is the model's own (notes/assumptions/5.md): a descriptor whose payload leaves BUF, which 10_state.md R41
says does not exist, is a named fault. -/
def Obligations.ChunkEmitRefusals : Prop :=
  ∀ s : State,
    let d := s.dstOff.toNat
    let p := s.chPayloadOff.toNat
    let n := s.chLen.toNat
    let overlapping : Prop := 0 < n ∧ p < d + 12 + n ∧ d < p + n ∧ p ≠ d + 8
    (s.chValid = false → exec .chunkEmit s = .next (failedWith .noChunk s)) ∧
    (s.chValid = true → s.bufSize < d + 12 + n → exec .chunkEmit s = .next (failedWith .range s)) ∧
    (s.chValid = true → d + 12 + n ≤ s.bufSize → overlapping → exec .chunkEmit s = .next (failedWith .overlap s)) ∧
    (s.chValid = true → d + 12 + n ≤ s.bufSize → ¬overlapping → s.bufSize < p + n →
      exec .chunkEmit s = .fault .payloadOutsideBuf)

/-- 00_scope.md R8: in a legal configuration the lengths and offsets that CHUNK_PARSE and CHUNK_EMIT store do not wrap,
and a new descriptor's payload lies in BUF. -/
def Obligations.StoredLengthsDoNotWrap : Prop :=
  ∀ s t : State, s.cfg.wellFormed = true →
    (exec .chunkParse s = .next t → t.errCode = .ok →
      t.outLen.toNat = 12 + t.chLen.toNat ∧ t.chPayloadOff.toNat = s.srcOff.toNat + 8 ∧
      t.chPayloadOff.toNat + t.chLen.toNat ≤ t.bufSize) ∧
    (exec .chunkEmit s = .next t → t.errCode = .ok → t.outLen.toNat = 12 + s.chLen.toNat)

/-- 43_chunk_frame.md R212: after a successful CHUNK_PARSE, a CHUNK_EMIT from any later state that still has the chunk
and its payload bytes writes exactly the frame that was parsed. -/
def Obligations.ParseThenEmitReproducesTheFrame : Prop :=
  ∀ s t m u : State, s.cfg.wellFormed = true → exec .chunkParse s = .next t → t.errCode = .ok →
    m.chValid = true → m.chLen = t.chLen → m.chType = t.chType → m.chPayloadOff = t.chPayloadOff → m.chCrc = t.chCrc →
    (∀ k < t.chLen.toNat, bufByte m (s.srcOff.toNat + 8 + k) = bufByte s (s.srcOff.toNat + 8 + k)) →
    exec .chunkEmit m = .next u → u.errCode = .ok →
    u.outLen.toNat = 12 + t.chLen.toNat ∧
    ∀ k < 12 + t.chLen.toNat, bufByte u (m.dstOff.toNat + k) = bufByte s (s.srcOff.toNat + k)

/-- 43_chunk_frame.md R213: CHUNK_NEW, CHUNK_EMIT to a place the overlap test admits, then CHUNK_PARSE of what was
emitted: all three complete OK, and the chunk has the same length, type, CRC and payload bytes. -/
def Obligations.NewEmitParseRoundTrip : Prop :=
  ∀ (s : State) (d : Word), s.cfg.wellFormed = true →
    s.srcOff.toNat + s.srcLen.toNat ≤ s.bufSize → d.toNat + 12 + s.srcLen.toNat ≤ s.bufSize →
    overlaps s.srcOff.toNat s.srcLen.toNat d.toNat = false →
    ∃ t u v, exec .chunkNew s = .next t ∧ t.errCode = .ok ∧
      exec .chunkEmit { t with dstOff := d } = .next u ∧ u.errCode = .ok ∧
      exec .chunkParse { u with srcOff := d, srcLen := 12#32 + s.srcLen } = .next v ∧ v.errCode = .ok ∧
      v.chLen = t.chLen ∧ t.chLen = s.srcLen ∧ v.chType = t.chType ∧ t.chType = s.typeReg ∧ v.chCrc = t.chCrc ∧
      v.chPayloadOff.toNat = d.toNat + 8 ∧ v.chValid = true ∧
      ∀ k < s.srcLen.toNat, bufByte v (d.toNat + 8 + k) = bufByte s (s.srcOff.toNat + k)

/-- 10_state.md R41, second condition: as long as the payload bytes are not written, every step keeps the descriptor's
CRC equal to the CRC of its type and payload; a step that makes a new descriptor makes it so. -/
def Obligations.ChunkCrcHoldsWhilePayloadIsUnwritten : Prop :=
  ∀ s t : State, s.cfg.wellFormed = true → s.chunkCrcHolds → step s = .next t →
    (∀ k < s.chLen.toNat, bufByte t (s.chPayloadOff.toNat + k) = bufByte s (s.chPayloadOff.toNat + k)) →
    t.chunkCrcHolds

/-- 10_state.md R40: the descriptor changes only in the completion of CHUNK_NEW or of CHUNK_PARSE with code OK, and in
reset. -/
def Obligations.DescriptorChangesOnlyByNewParseOrReset : Prop :=
  ∀ s t : State, step s = .next t →
    (t.chLen ≠ s.chLen ∨ t.chType ≠ s.chType ∨ t.chPayloadOff ≠ s.chPayloadOff ∨ t.chCrc ≠ s.chCrc ∨
      t.chValid ≠ s.chValid) →
    (s.busy = true ∧ (decode s.cmd = .ok .chunkNew ∨ decode s.cmd = .ok .chunkParse) ∧ t.errCode = .ok ∧
      t.chValid = true) ∨
    ∃ rest, s.inbox = .reset :: rest

/-! ### Rules over all commands -/

/-- 60_exceptions.md R256: errors are precise. A failing command changes only STATUS, and on CRC_MISMATCH the two
registers that record the CRCs; no byte of BUF changes. -/
def Obligations.FailingCommandsChangeOnlyStatus : Prop :=
  ∀ (i : Instr) (s t : State), exec i s = .next t → t.errCode ≠ .ok →
    (t.errCode ≠ .crcMismatch → t = failedWith t.errCode s) ∧
    (t.errCode = .crcMismatch → i = .chunkParse ∧
      t = failedWith .crcMismatch { s with crcStored := t.crcStored, crcComputed := t.crcComputed } ∧
      t.crcStored ≠ t.crcComputed)

/-- 60_exceptions.md R250, R251, R254: the codes each command can complete with; UTF8_DECODE and ILLEGAL_COMMAND are
among none of them. -/
def Obligations.ErrorCodesOfEachCommand : Prop :=
  ∀ (i : Instr) (s t : State), exec i s = .next t →
    (i = .nop ∨ i = .crcInit ∨ (∃ b, i = .crcByte b) → t.errCode = .ok) ∧
    (i = .crcBuf ∨ i = .chunkNew → t.errCode ∈ [ErrCode.ok, .range]) ∧
    (i = .typeLoadStr → t.errCode ∈ [ErrCode.ok, .range, .invalidChunkType]) ∧
    (i = .chunkParse → t.errCode ∈ [ErrCode.ok, .range, .tooShort, .truncated, .crcMismatch]) ∧
    (i = .chunkEmit → t.errCode ∈ [ErrCode.ok, .noChunk, .range, .overlap])

/-- 30_encoding.md R102, 10_state.md R45: what a command leaves unchanged. No command writes CMD, IRQ_EN, SRC_OFF,
SRC_LEN, DST_OFF, TYPE_B or OVR, and each other register and each byte of BUF changes only under the commands whose
outputs it is among; CHUNK_EMIT stores its `12 + CH_LEN` bytes from DST_OFF and no other. -/
def Obligations.EachCommandWritesOnlyItsOutputs : Prop :=
  ∀ (i : Instr) (s t : State), exec i s = .next t →
    (t.cfg = s.cfg ∧ t.cmd = s.cmd ∧ t.ie = s.ie ∧ t.ovr = s.ovr ∧ t.srcOff = s.srcOff ∧ t.srcLen = s.srcLen ∧
      t.dstOff = s.dstOff ∧ t.typeB = s.typeB ∧ t.resets = s.resets ∧ t.stalled = s.stalled ∧ t.inbox = s.inbox ∧
      t.replies = s.replies) ∧
    (i ≠ .crcInit → (∀ b, i ≠ .crcByte b) → i ≠ .crcBuf → t.crcState = s.crcState) ∧
    (i ≠ .typeLoadStr → t.typeReg = s.typeReg) ∧
    (i ≠ .chunkNew → i ≠ .chunkParse → t.chLen = s.chLen ∧ t.chType = s.chType ∧
      t.chPayloadOff = s.chPayloadOff ∧ t.chCrc = s.chCrc ∧ t.chValid = s.chValid) ∧
    (i ≠ .chunkParse → t.crcStored = s.crcStored ∧ t.crcComputed = s.crcComputed) ∧
    (i ≠ .chunkParse → i ≠ .chunkEmit → t.outLen = s.outLen) ∧
    (i ≠ .chunkEmit → ∀ a, bufByte t a = bufByte s a) ∧
    (∀ a, (a < s.dstOff.toNat ∨ s.dstOff.toNat + 12 + s.chLen.toNat ≤ a) → bufByte t a = bufByte s a)
end

