-- ==== Sys2Proof/Laws/State.lean ====
section
/-! SUPPORT. One lemma for each field of the state under each named update, so that no proof unfolds a record update. -/

namespace Sys2Proof.Machine

/-! ### acceptCommand -/

@[simp] theorem acceptCommand_cfg (w : Word) (s : State) : (acceptCommand w s).cfg = s.cfg := rfl
@[simp] theorem acceptCommand_bufSize (w : Word) (s : State) : (acceptCommand w s).bufSize = s.bufSize := rfl
@[simp] theorem acceptCommand_cmd (w : Word) (s : State) : (acceptCommand w s).cmd = w := rfl
@[simp] theorem acceptCommand_busy (w : Word) (s : State) : (acceptCommand w s).busy = true := rfl
@[simp] theorem acceptCommand_done (w : Word) (s : State) : (acceptCommand w s).done = false := rfl
@[simp] theorem acceptCommand_err (w : Word) (s : State) : (acceptCommand w s).err = s.err := rfl
@[simp] theorem acceptCommand_ovr (w : Word) (s : State) : (acceptCommand w s).ovr = s.ovr := rfl
@[simp] theorem acceptCommand_errCode (w : Word) (s : State) : (acceptCommand w s).errCode = s.errCode := rfl
@[simp] theorem acceptCommand_ie (w : Word) (s : State) : (acceptCommand w s).ie = s.ie := rfl
@[simp] theorem acceptCommand_crcState (w : Word) (s : State) : (acceptCommand w s).crcState = s.crcState := rfl
@[simp] theorem acceptCommand_srcOff (w : Word) (s : State) : (acceptCommand w s).srcOff = s.srcOff := rfl
@[simp] theorem acceptCommand_srcLen (w : Word) (s : State) : (acceptCommand w s).srcLen = s.srcLen := rfl
@[simp] theorem acceptCommand_dstOff (w : Word) (s : State) : (acceptCommand w s).dstOff = s.dstOff := rfl
@[simp] theorem acceptCommand_typeReg (w : Word) (s : State) : (acceptCommand w s).typeReg = s.typeReg := rfl
@[simp] theorem acceptCommand_typeB (w : Word) (s : State) : (acceptCommand w s).typeB = s.typeB := rfl
@[simp] theorem acceptCommand_chLen (w : Word) (s : State) : (acceptCommand w s).chLen = s.chLen := rfl
@[simp] theorem acceptCommand_chType (w : Word) (s : State) : (acceptCommand w s).chType = s.chType := rfl
@[simp] theorem acceptCommand_chPayloadOff (w : Word) (s : State) : (acceptCommand w s).chPayloadOff = s.chPayloadOff := rfl
@[simp] theorem acceptCommand_chCrc (w : Word) (s : State) : (acceptCommand w s).chCrc = s.chCrc := rfl
@[simp] theorem acceptCommand_chValid (w : Word) (s : State) : (acceptCommand w s).chValid = s.chValid := rfl
@[simp] theorem acceptCommand_crcStored (w : Word) (s : State) : (acceptCommand w s).crcStored = s.crcStored := rfl
@[simp] theorem acceptCommand_crcComputed (w : Word) (s : State) : (acceptCommand w s).crcComputed = s.crcComputed := rfl
@[simp] theorem acceptCommand_outLen (w : Word) (s : State) : (acceptCommand w s).outLen = s.outLen := rfl
@[simp] theorem acceptCommand_buf (w : Word) (s : State) : (acceptCommand w s).buf = s.buf := rfl
@[simp] theorem acceptCommand_resets (w : Word) (s : State) : (acceptCommand w s).resets = s.resets := rfl
@[simp] theorem acceptCommand_stalled (w : Word) (s : State) : (acceptCommand w s).stalled = s.stalled := rfl
@[simp] theorem acceptCommand_inbox (w : Word) (s : State) : (acceptCommand w s).inbox = s.inbox := rfl
@[simp] theorem acceptCommand_replies (w : Word) (s : State) : (acceptCommand w s).replies = s.replies := rfl

/-! ### complete -/

@[simp] theorem complete_cfg (e : ErrCode) (s : State) : (complete e s).cfg = s.cfg := rfl
@[simp] theorem complete_bufSize (e : ErrCode) (s : State) : (complete e s).bufSize = s.bufSize := rfl
@[simp] theorem complete_cmd (e : ErrCode) (s : State) : (complete e s).cmd = s.cmd := rfl
@[simp] theorem complete_busy (e : ErrCode) (s : State) : (complete e s).busy = false := rfl
@[simp] theorem complete_done (e : ErrCode) (s : State) : (complete e s).done = true := rfl
@[simp] theorem complete_err (e : ErrCode) (s : State) : (complete e s).err = (e != .ok) := rfl
@[simp] theorem complete_ovr (e : ErrCode) (s : State) : (complete e s).ovr = s.ovr := rfl
@[simp] theorem complete_errCode (e : ErrCode) (s : State) : (complete e s).errCode = e := rfl
@[simp] theorem complete_ie (e : ErrCode) (s : State) : (complete e s).ie = s.ie := rfl
@[simp] theorem complete_crcState (e : ErrCode) (s : State) : (complete e s).crcState = s.crcState := rfl
@[simp] theorem complete_srcOff (e : ErrCode) (s : State) : (complete e s).srcOff = s.srcOff := rfl
@[simp] theorem complete_srcLen (e : ErrCode) (s : State) : (complete e s).srcLen = s.srcLen := rfl
@[simp] theorem complete_dstOff (e : ErrCode) (s : State) : (complete e s).dstOff = s.dstOff := rfl
@[simp] theorem complete_typeReg (e : ErrCode) (s : State) : (complete e s).typeReg = s.typeReg := rfl
@[simp] theorem complete_typeB (e : ErrCode) (s : State) : (complete e s).typeB = s.typeB := rfl
@[simp] theorem complete_chLen (e : ErrCode) (s : State) : (complete e s).chLen = s.chLen := rfl
@[simp] theorem complete_chType (e : ErrCode) (s : State) : (complete e s).chType = s.chType := rfl
@[simp] theorem complete_chPayloadOff (e : ErrCode) (s : State) : (complete e s).chPayloadOff = s.chPayloadOff := rfl
@[simp] theorem complete_chCrc (e : ErrCode) (s : State) : (complete e s).chCrc = s.chCrc := rfl
@[simp] theorem complete_chValid (e : ErrCode) (s : State) : (complete e s).chValid = s.chValid := rfl
@[simp] theorem complete_crcStored (e : ErrCode) (s : State) : (complete e s).crcStored = s.crcStored := rfl
@[simp] theorem complete_crcComputed (e : ErrCode) (s : State) : (complete e s).crcComputed = s.crcComputed := rfl
@[simp] theorem complete_outLen (e : ErrCode) (s : State) : (complete e s).outLen = s.outLen := rfl
@[simp] theorem complete_buf (e : ErrCode) (s : State) : (complete e s).buf = s.buf := rfl
@[simp] theorem complete_resets (e : ErrCode) (s : State) : (complete e s).resets = s.resets := rfl
@[simp] theorem complete_stalled (e : ErrCode) (s : State) : (complete e s).stalled = s.stalled := rfl
@[simp] theorem complete_inbox (e : ErrCode) (s : State) : (complete e s).inbox = s.inbox := rfl
@[simp] theorem complete_replies (e : ErrCode) (s : State) : (complete e s).replies = s.replies := rfl

/-! ### raise -/

@[simp] theorem raise_cfg (e : ErrCode) (s : State) : (raise e s).cfg = s.cfg := rfl
@[simp] theorem raise_bufSize (e : ErrCode) (s : State) : (raise e s).bufSize = s.bufSize := rfl
@[simp] theorem raise_cmd (e : ErrCode) (s : State) : (raise e s).cmd = s.cmd := rfl
@[simp] theorem raise_busy (e : ErrCode) (s : State) : (raise e s).busy = false := rfl
@[simp] theorem raise_done (e : ErrCode) (s : State) : (raise e s).done = true := rfl
@[simp] theorem raise_err (e : ErrCode) (s : State) : (raise e s).err = (e != .ok) := rfl
@[simp] theorem raise_ovr (e : ErrCode) (s : State) : (raise e s).ovr = s.ovr := rfl
@[simp] theorem raise_errCode (e : ErrCode) (s : State) : (raise e s).errCode = e := rfl
@[simp] theorem raise_ie (e : ErrCode) (s : State) : (raise e s).ie = s.ie := rfl
@[simp] theorem raise_crcState (e : ErrCode) (s : State) : (raise e s).crcState = s.crcState := rfl
@[simp] theorem raise_srcOff (e : ErrCode) (s : State) : (raise e s).srcOff = s.srcOff := rfl
@[simp] theorem raise_srcLen (e : ErrCode) (s : State) : (raise e s).srcLen = s.srcLen := rfl
@[simp] theorem raise_dstOff (e : ErrCode) (s : State) : (raise e s).dstOff = s.dstOff := rfl
@[simp] theorem raise_typeReg (e : ErrCode) (s : State) : (raise e s).typeReg = s.typeReg := rfl
@[simp] theorem raise_typeB (e : ErrCode) (s : State) : (raise e s).typeB = s.typeB := rfl
@[simp] theorem raise_chLen (e : ErrCode) (s : State) : (raise e s).chLen = s.chLen := rfl
@[simp] theorem raise_chType (e : ErrCode) (s : State) : (raise e s).chType = s.chType := rfl
@[simp] theorem raise_chPayloadOff (e : ErrCode) (s : State) : (raise e s).chPayloadOff = s.chPayloadOff := rfl
@[simp] theorem raise_chCrc (e : ErrCode) (s : State) : (raise e s).chCrc = s.chCrc := rfl
@[simp] theorem raise_chValid (e : ErrCode) (s : State) : (raise e s).chValid = s.chValid := rfl
@[simp] theorem raise_crcStored (e : ErrCode) (s : State) : (raise e s).crcStored = s.crcStored := rfl
@[simp] theorem raise_crcComputed (e : ErrCode) (s : State) : (raise e s).crcComputed = s.crcComputed := rfl
@[simp] theorem raise_outLen (e : ErrCode) (s : State) : (raise e s).outLen = s.outLen := rfl
@[simp] theorem raise_buf (e : ErrCode) (s : State) : (raise e s).buf = s.buf := rfl
@[simp] theorem raise_resets (e : ErrCode) (s : State) : (raise e s).resets = s.resets := rfl
@[simp] theorem raise_stalled (e : ErrCode) (s : State) : (raise e s).stalled = s.stalled := rfl
@[simp] theorem raise_inbox (e : ErrCode) (s : State) : (raise e s).inbox = s.inbox := rfl
@[simp] theorem raise_replies (e : ErrCode) (s : State) : (raise e s).replies = s.replies := rfl

/-! ### reply -/

@[simp] theorem reply_cfg (r : Reply) (s : State) : (reply r s).cfg = s.cfg := rfl
@[simp] theorem reply_bufSize (r : Reply) (s : State) : (reply r s).bufSize = s.bufSize := rfl
@[simp] theorem reply_cmd (r : Reply) (s : State) : (reply r s).cmd = s.cmd := rfl
@[simp] theorem reply_busy (r : Reply) (s : State) : (reply r s).busy = s.busy := rfl
@[simp] theorem reply_done (r : Reply) (s : State) : (reply r s).done = s.done := rfl
@[simp] theorem reply_err (r : Reply) (s : State) : (reply r s).err = s.err := rfl
@[simp] theorem reply_ovr (r : Reply) (s : State) : (reply r s).ovr = s.ovr := rfl
@[simp] theorem reply_errCode (r : Reply) (s : State) : (reply r s).errCode = s.errCode := rfl
@[simp] theorem reply_ie (r : Reply) (s : State) : (reply r s).ie = s.ie := rfl
@[simp] theorem reply_crcState (r : Reply) (s : State) : (reply r s).crcState = s.crcState := rfl
@[simp] theorem reply_srcOff (r : Reply) (s : State) : (reply r s).srcOff = s.srcOff := rfl
@[simp] theorem reply_srcLen (r : Reply) (s : State) : (reply r s).srcLen = s.srcLen := rfl
@[simp] theorem reply_dstOff (r : Reply) (s : State) : (reply r s).dstOff = s.dstOff := rfl
@[simp] theorem reply_typeReg (r : Reply) (s : State) : (reply r s).typeReg = s.typeReg := rfl
@[simp] theorem reply_typeB (r : Reply) (s : State) : (reply r s).typeB = s.typeB := rfl
@[simp] theorem reply_chLen (r : Reply) (s : State) : (reply r s).chLen = s.chLen := rfl
@[simp] theorem reply_chType (r : Reply) (s : State) : (reply r s).chType = s.chType := rfl
@[simp] theorem reply_chPayloadOff (r : Reply) (s : State) : (reply r s).chPayloadOff = s.chPayloadOff := rfl
@[simp] theorem reply_chCrc (r : Reply) (s : State) : (reply r s).chCrc = s.chCrc := rfl
@[simp] theorem reply_chValid (r : Reply) (s : State) : (reply r s).chValid = s.chValid := rfl
@[simp] theorem reply_crcStored (r : Reply) (s : State) : (reply r s).crcStored = s.crcStored := rfl
@[simp] theorem reply_crcComputed (r : Reply) (s : State) : (reply r s).crcComputed = s.crcComputed := rfl
@[simp] theorem reply_outLen (r : Reply) (s : State) : (reply r s).outLen = s.outLen := rfl
@[simp] theorem reply_buf (r : Reply) (s : State) : (reply r s).buf = s.buf := rfl
@[simp] theorem reply_resets (r : Reply) (s : State) : (reply r s).resets = s.resets := rfl
@[simp] theorem reply_stalled (r : Reply) (s : State) : (reply r s).stalled = s.stalled := rfl
@[simp] theorem reply_inbox (r : Reply) (s : State) : (reply r s).inbox = s.inbox := rfl
@[simp] theorem reply_replies (r : Reply) (s : State) : (reply r s).replies = r :: s.replies := rfl

/-! ### bufWrite -/

@[simp] theorem bufWrite_cfg (o : Nat) (bs : List Byte) (s : State) : (bufWrite o bs s).cfg = s.cfg := rfl
@[simp] theorem bufWrite_bufSize (o : Nat) (bs : List Byte) (s : State) : (bufWrite o bs s).bufSize = s.bufSize := rfl
@[simp] theorem bufWrite_cmd (o : Nat) (bs : List Byte) (s : State) : (bufWrite o bs s).cmd = s.cmd := rfl
@[simp] theorem bufWrite_busy (o : Nat) (bs : List Byte) (s : State) : (bufWrite o bs s).busy = s.busy := rfl
@[simp] theorem bufWrite_done (o : Nat) (bs : List Byte) (s : State) : (bufWrite o bs s).done = s.done := rfl
@[simp] theorem bufWrite_err (o : Nat) (bs : List Byte) (s : State) : (bufWrite o bs s).err = s.err := rfl
@[simp] theorem bufWrite_ovr (o : Nat) (bs : List Byte) (s : State) : (bufWrite o bs s).ovr = s.ovr := rfl
@[simp] theorem bufWrite_errCode (o : Nat) (bs : List Byte) (s : State) : (bufWrite o bs s).errCode = s.errCode := rfl
@[simp] theorem bufWrite_ie (o : Nat) (bs : List Byte) (s : State) : (bufWrite o bs s).ie = s.ie := rfl
@[simp] theorem bufWrite_crcState (o : Nat) (bs : List Byte) (s : State) : (bufWrite o bs s).crcState = s.crcState := rfl
@[simp] theorem bufWrite_srcOff (o : Nat) (bs : List Byte) (s : State) : (bufWrite o bs s).srcOff = s.srcOff := rfl
@[simp] theorem bufWrite_srcLen (o : Nat) (bs : List Byte) (s : State) : (bufWrite o bs s).srcLen = s.srcLen := rfl
@[simp] theorem bufWrite_dstOff (o : Nat) (bs : List Byte) (s : State) : (bufWrite o bs s).dstOff = s.dstOff := rfl
@[simp] theorem bufWrite_typeReg (o : Nat) (bs : List Byte) (s : State) : (bufWrite o bs s).typeReg = s.typeReg := rfl
@[simp] theorem bufWrite_typeB (o : Nat) (bs : List Byte) (s : State) : (bufWrite o bs s).typeB = s.typeB := rfl
@[simp] theorem bufWrite_chLen (o : Nat) (bs : List Byte) (s : State) : (bufWrite o bs s).chLen = s.chLen := rfl
@[simp] theorem bufWrite_chType (o : Nat) (bs : List Byte) (s : State) : (bufWrite o bs s).chType = s.chType := rfl
@[simp] theorem bufWrite_chPayloadOff (o : Nat) (bs : List Byte) (s : State) : (bufWrite o bs s).chPayloadOff = s.chPayloadOff := rfl
@[simp] theorem bufWrite_chCrc (o : Nat) (bs : List Byte) (s : State) : (bufWrite o bs s).chCrc = s.chCrc := rfl
@[simp] theorem bufWrite_chValid (o : Nat) (bs : List Byte) (s : State) : (bufWrite o bs s).chValid = s.chValid := rfl
@[simp] theorem bufWrite_crcStored (o : Nat) (bs : List Byte) (s : State) : (bufWrite o bs s).crcStored = s.crcStored := rfl
@[simp] theorem bufWrite_crcComputed (o : Nat) (bs : List Byte) (s : State) : (bufWrite o bs s).crcComputed = s.crcComputed := rfl
@[simp] theorem bufWrite_outLen (o : Nat) (bs : List Byte) (s : State) : (bufWrite o bs s).outLen = s.outLen := rfl
@[simp] theorem bufWrite_buf (o : Nat) (bs : List Byte) (s : State) : (bufWrite o bs s).buf = Memory.setAll s.buf o bs := rfl
@[simp] theorem bufWrite_resets (o : Nat) (bs : List Byte) (s : State) : (bufWrite o bs s).resets = s.resets := rfl
@[simp] theorem bufWrite_stalled (o : Nat) (bs : List Byte) (s : State) : (bufWrite o bs s).stalled = s.stalled := rfl
@[simp] theorem bufWrite_inbox (o : Nat) (bs : List Byte) (s : State) : (bufWrite o bs s).inbox = s.inbox := rfl
@[simp] theorem bufWrite_replies (o : Nat) (bs : List Byte) (s : State) : (bufWrite o bs s).replies = s.replies := rfl

/-! ### setDescriptor -/

@[simp] theorem setDescriptor_cfg (n t off c : Word) (s : State) : (setDescriptor n t off c s).cfg = s.cfg := rfl
@[simp] theorem setDescriptor_bufSize (n t off c : Word) (s : State) : (setDescriptor n t off c s).bufSize = s.bufSize := rfl
@[simp] theorem setDescriptor_cmd (n t off c : Word) (s : State) : (setDescriptor n t off c s).cmd = s.cmd := rfl
@[simp] theorem setDescriptor_busy (n t off c : Word) (s : State) : (setDescriptor n t off c s).busy = s.busy := rfl
@[simp] theorem setDescriptor_done (n t off c : Word) (s : State) : (setDescriptor n t off c s).done = s.done := rfl
@[simp] theorem setDescriptor_err (n t off c : Word) (s : State) : (setDescriptor n t off c s).err = s.err := rfl
@[simp] theorem setDescriptor_ovr (n t off c : Word) (s : State) : (setDescriptor n t off c s).ovr = s.ovr := rfl
@[simp] theorem setDescriptor_errCode (n t off c : Word) (s : State) : (setDescriptor n t off c s).errCode = s.errCode := rfl
@[simp] theorem setDescriptor_ie (n t off c : Word) (s : State) : (setDescriptor n t off c s).ie = s.ie := rfl
@[simp] theorem setDescriptor_crcState (n t off c : Word) (s : State) : (setDescriptor n t off c s).crcState = s.crcState := rfl
@[simp] theorem setDescriptor_srcOff (n t off c : Word) (s : State) : (setDescriptor n t off c s).srcOff = s.srcOff := rfl
@[simp] theorem setDescriptor_srcLen (n t off c : Word) (s : State) : (setDescriptor n t off c s).srcLen = s.srcLen := rfl
@[simp] theorem setDescriptor_dstOff (n t off c : Word) (s : State) : (setDescriptor n t off c s).dstOff = s.dstOff := rfl
@[simp] theorem setDescriptor_typeReg (n t off c : Word) (s : State) : (setDescriptor n t off c s).typeReg = s.typeReg := rfl
@[simp] theorem setDescriptor_typeB (n t off c : Word) (s : State) : (setDescriptor n t off c s).typeB = s.typeB := rfl
@[simp] theorem setDescriptor_chLen (n t off c : Word) (s : State) : (setDescriptor n t off c s).chLen = n := rfl
@[simp] theorem setDescriptor_chType (n t off c : Word) (s : State) : (setDescriptor n t off c s).chType = t := rfl
@[simp] theorem setDescriptor_chPayloadOff (n t off c : Word) (s : State) : (setDescriptor n t off c s).chPayloadOff = off := rfl
@[simp] theorem setDescriptor_chCrc (n t off c : Word) (s : State) : (setDescriptor n t off c s).chCrc = c := rfl
@[simp] theorem setDescriptor_chValid (n t off c : Word) (s : State) : (setDescriptor n t off c s).chValid = true := rfl
@[simp] theorem setDescriptor_crcStored (n t off c : Word) (s : State) : (setDescriptor n t off c s).crcStored = s.crcStored := rfl
@[simp] theorem setDescriptor_crcComputed (n t off c : Word) (s : State) : (setDescriptor n t off c s).crcComputed = s.crcComputed := rfl
@[simp] theorem setDescriptor_outLen (n t off c : Word) (s : State) : (setDescriptor n t off c s).outLen = s.outLen := rfl
@[simp] theorem setDescriptor_buf (n t off c : Word) (s : State) : (setDescriptor n t off c s).buf = s.buf := rfl
@[simp] theorem setDescriptor_resets (n t off c : Word) (s : State) : (setDescriptor n t off c s).resets = s.resets := rfl
@[simp] theorem setDescriptor_stalled (n t off c : Word) (s : State) : (setDescriptor n t off c s).stalled = s.stalled := rfl
@[simp] theorem setDescriptor_inbox (n t off c : Word) (s : State) : (setDescriptor n t off c s).inbox = s.inbox := rfl
@[simp] theorem setDescriptor_replies (n t off c : Word) (s : State) : (setDescriptor n t off c s).replies = s.replies := rfl

/-! ### writeStatus -/

@[simp] theorem writeStatus_cfg (v : Word) (s : State) : (writeStatus v s).cfg = s.cfg := rfl
@[simp] theorem writeStatus_bufSize (v : Word) (s : State) : (writeStatus v s).bufSize = s.bufSize := rfl
@[simp] theorem writeStatus_cmd (v : Word) (s : State) : (writeStatus v s).cmd = s.cmd := rfl
@[simp] theorem writeStatus_busy (v : Word) (s : State) : (writeStatus v s).busy = s.busy := rfl
@[simp] theorem writeStatus_done (v : Word) (s : State) : (writeStatus v s).done = (s.done && !v.getLsbD 1) := rfl
@[simp] theorem writeStatus_err (v : Word) (s : State) : (writeStatus v s).err = s.err := rfl
@[simp] theorem writeStatus_ovr (v : Word) (s : State) : (writeStatus v s).ovr = (s.ovr && !v.getLsbD 3) := rfl
@[simp] theorem writeStatus_errCode (v : Word) (s : State) : (writeStatus v s).errCode = s.errCode := rfl
@[simp] theorem writeStatus_ie (v : Word) (s : State) : (writeStatus v s).ie = s.ie := rfl
@[simp] theorem writeStatus_crcState (v : Word) (s : State) : (writeStatus v s).crcState = s.crcState := rfl
@[simp] theorem writeStatus_srcOff (v : Word) (s : State) : (writeStatus v s).srcOff = s.srcOff := rfl
@[simp] theorem writeStatus_srcLen (v : Word) (s : State) : (writeStatus v s).srcLen = s.srcLen := rfl
@[simp] theorem writeStatus_dstOff (v : Word) (s : State) : (writeStatus v s).dstOff = s.dstOff := rfl
@[simp] theorem writeStatus_typeReg (v : Word) (s : State) : (writeStatus v s).typeReg = s.typeReg := rfl
@[simp] theorem writeStatus_typeB (v : Word) (s : State) : (writeStatus v s).typeB = s.typeB := rfl
@[simp] theorem writeStatus_chLen (v : Word) (s : State) : (writeStatus v s).chLen = s.chLen := rfl
@[simp] theorem writeStatus_chType (v : Word) (s : State) : (writeStatus v s).chType = s.chType := rfl
@[simp] theorem writeStatus_chPayloadOff (v : Word) (s : State) : (writeStatus v s).chPayloadOff = s.chPayloadOff := rfl
@[simp] theorem writeStatus_chCrc (v : Word) (s : State) : (writeStatus v s).chCrc = s.chCrc := rfl
@[simp] theorem writeStatus_chValid (v : Word) (s : State) : (writeStatus v s).chValid = s.chValid := rfl
@[simp] theorem writeStatus_crcStored (v : Word) (s : State) : (writeStatus v s).crcStored = s.crcStored := rfl
@[simp] theorem writeStatus_crcComputed (v : Word) (s : State) : (writeStatus v s).crcComputed = s.crcComputed := rfl
@[simp] theorem writeStatus_outLen (v : Word) (s : State) : (writeStatus v s).outLen = s.outLen := rfl
@[simp] theorem writeStatus_buf (v : Word) (s : State) : (writeStatus v s).buf = s.buf := rfl
@[simp] theorem writeStatus_resets (v : Word) (s : State) : (writeStatus v s).resets = s.resets := rfl
@[simp] theorem writeStatus_stalled (v : Word) (s : State) : (writeStatus v s).stalled = s.stalled := rfl
@[simp] theorem writeStatus_inbox (v : Word) (s : State) : (writeStatus v s).inbox = s.inbox := rfl
@[simp] theorem writeStatus_replies (v : Word) (s : State) : (writeStatus v s).replies = s.replies := rfl

/-! ### succeeded -/

@[simp] theorem succeeded_cfg (s : State) : (succeeded s).cfg = s.cfg := rfl
@[simp] theorem succeeded_bufSize (s : State) : (succeeded s).bufSize = s.bufSize := rfl
@[simp] theorem succeeded_cmd (s : State) : (succeeded s).cmd = s.cmd := rfl
@[simp] theorem succeeded_busy (s : State) : (succeeded s).busy = false := rfl
@[simp] theorem succeeded_done (s : State) : (succeeded s).done = true := rfl
@[simp] theorem succeeded_err (s : State) : (succeeded s).err = false := rfl
@[simp] theorem succeeded_ovr (s : State) : (succeeded s).ovr = s.ovr := rfl
@[simp] theorem succeeded_errCode (s : State) : (succeeded s).errCode = .ok := rfl
@[simp] theorem succeeded_ie (s : State) : (succeeded s).ie = s.ie := rfl
@[simp] theorem succeeded_crcState (s : State) : (succeeded s).crcState = s.crcState := rfl
@[simp] theorem succeeded_srcOff (s : State) : (succeeded s).srcOff = s.srcOff := rfl
@[simp] theorem succeeded_srcLen (s : State) : (succeeded s).srcLen = s.srcLen := rfl
@[simp] theorem succeeded_dstOff (s : State) : (succeeded s).dstOff = s.dstOff := rfl
@[simp] theorem succeeded_typeReg (s : State) : (succeeded s).typeReg = s.typeReg := rfl
@[simp] theorem succeeded_typeB (s : State) : (succeeded s).typeB = s.typeB := rfl
@[simp] theorem succeeded_chLen (s : State) : (succeeded s).chLen = s.chLen := rfl
@[simp] theorem succeeded_chType (s : State) : (succeeded s).chType = s.chType := rfl
@[simp] theorem succeeded_chPayloadOff (s : State) : (succeeded s).chPayloadOff = s.chPayloadOff := rfl
@[simp] theorem succeeded_chCrc (s : State) : (succeeded s).chCrc = s.chCrc := rfl
@[simp] theorem succeeded_chValid (s : State) : (succeeded s).chValid = s.chValid := rfl
@[simp] theorem succeeded_crcStored (s : State) : (succeeded s).crcStored = s.crcStored := rfl
@[simp] theorem succeeded_crcComputed (s : State) : (succeeded s).crcComputed = s.crcComputed := rfl
@[simp] theorem succeeded_outLen (s : State) : (succeeded s).outLen = s.outLen := rfl
@[simp] theorem succeeded_buf (s : State) : (succeeded s).buf = s.buf := rfl
@[simp] theorem succeeded_resets (s : State) : (succeeded s).resets = s.resets := rfl
@[simp] theorem succeeded_stalled (s : State) : (succeeded s).stalled = s.stalled := rfl
@[simp] theorem succeeded_inbox (s : State) : (succeeded s).inbox = s.inbox := rfl
@[simp] theorem succeeded_replies (s : State) : (succeeded s).replies = s.replies := rfl

/-! ### failedWith -/

@[simp] theorem failedWith_cfg (e : ErrCode) (s : State) : (failedWith e s).cfg = s.cfg := rfl
@[simp] theorem failedWith_bufSize (e : ErrCode) (s : State) : (failedWith e s).bufSize = s.bufSize := rfl
@[simp] theorem failedWith_cmd (e : ErrCode) (s : State) : (failedWith e s).cmd = s.cmd := rfl
@[simp] theorem failedWith_busy (e : ErrCode) (s : State) : (failedWith e s).busy = false := rfl
@[simp] theorem failedWith_done (e : ErrCode) (s : State) : (failedWith e s).done = true := rfl
@[simp] theorem failedWith_err (e : ErrCode) (s : State) : (failedWith e s).err = true := rfl
@[simp] theorem failedWith_ovr (e : ErrCode) (s : State) : (failedWith e s).ovr = s.ovr := rfl
@[simp] theorem failedWith_errCode (e : ErrCode) (s : State) : (failedWith e s).errCode = e := rfl
@[simp] theorem failedWith_ie (e : ErrCode) (s : State) : (failedWith e s).ie = s.ie := rfl
@[simp] theorem failedWith_crcState (e : ErrCode) (s : State) : (failedWith e s).crcState = s.crcState := rfl
@[simp] theorem failedWith_srcOff (e : ErrCode) (s : State) : (failedWith e s).srcOff = s.srcOff := rfl
@[simp] theorem failedWith_srcLen (e : ErrCode) (s : State) : (failedWith e s).srcLen = s.srcLen := rfl
@[simp] theorem failedWith_dstOff (e : ErrCode) (s : State) : (failedWith e s).dstOff = s.dstOff := rfl
@[simp] theorem failedWith_typeReg (e : ErrCode) (s : State) : (failedWith e s).typeReg = s.typeReg := rfl
@[simp] theorem failedWith_typeB (e : ErrCode) (s : State) : (failedWith e s).typeB = s.typeB := rfl
@[simp] theorem failedWith_chLen (e : ErrCode) (s : State) : (failedWith e s).chLen = s.chLen := rfl
@[simp] theorem failedWith_chType (e : ErrCode) (s : State) : (failedWith e s).chType = s.chType := rfl
@[simp] theorem failedWith_chPayloadOff (e : ErrCode) (s : State) : (failedWith e s).chPayloadOff = s.chPayloadOff := rfl
@[simp] theorem failedWith_chCrc (e : ErrCode) (s : State) : (failedWith e s).chCrc = s.chCrc := rfl
@[simp] theorem failedWith_chValid (e : ErrCode) (s : State) : (failedWith e s).chValid = s.chValid := rfl
@[simp] theorem failedWith_crcStored (e : ErrCode) (s : State) : (failedWith e s).crcStored = s.crcStored := rfl
@[simp] theorem failedWith_crcComputed (e : ErrCode) (s : State) : (failedWith e s).crcComputed = s.crcComputed := rfl
@[simp] theorem failedWith_outLen (e : ErrCode) (s : State) : (failedWith e s).outLen = s.outLen := rfl
@[simp] theorem failedWith_buf (e : ErrCode) (s : State) : (failedWith e s).buf = s.buf := rfl
@[simp] theorem failedWith_resets (e : ErrCode) (s : State) : (failedWith e s).resets = s.resets := rfl
@[simp] theorem failedWith_stalled (e : ErrCode) (s : State) : (failedWith e s).stalled = s.stalled := rfl
@[simp] theorem failedWith_inbox (e : ErrCode) (s : State) : (failedWith e s).inbox = s.inbox := rfl
@[simp] theorem failedWith_replies (e : ErrCode) (s : State) : (failedWith e s).replies = s.replies := rfl

/-! ### recordCrcs -/

@[simp] theorem recordCrcs_cfg (s : State) : (recordCrcs s).cfg = s.cfg := rfl
@[simp] theorem recordCrcs_bufSize (s : State) : (recordCrcs s).bufSize = s.bufSize := rfl
@[simp] theorem recordCrcs_cmd (s : State) : (recordCrcs s).cmd = s.cmd := rfl
@[simp] theorem recordCrcs_busy (s : State) : (recordCrcs s).busy = s.busy := rfl
@[simp] theorem recordCrcs_done (s : State) : (recordCrcs s).done = s.done := rfl
@[simp] theorem recordCrcs_err (s : State) : (recordCrcs s).err = s.err := rfl
@[simp] theorem recordCrcs_ovr (s : State) : (recordCrcs s).ovr = s.ovr := rfl
@[simp] theorem recordCrcs_errCode (s : State) : (recordCrcs s).errCode = s.errCode := rfl
@[simp] theorem recordCrcs_ie (s : State) : (recordCrcs s).ie = s.ie := rfl
@[simp] theorem recordCrcs_crcState (s : State) : (recordCrcs s).crcState = s.crcState := rfl
@[simp] theorem recordCrcs_srcOff (s : State) : (recordCrcs s).srcOff = s.srcOff := rfl
@[simp] theorem recordCrcs_srcLen (s : State) : (recordCrcs s).srcLen = s.srcLen := rfl
@[simp] theorem recordCrcs_dstOff (s : State) : (recordCrcs s).dstOff = s.dstOff := rfl
@[simp] theorem recordCrcs_typeReg (s : State) : (recordCrcs s).typeReg = s.typeReg := rfl
@[simp] theorem recordCrcs_typeB (s : State) : (recordCrcs s).typeB = s.typeB := rfl
@[simp] theorem recordCrcs_chLen (s : State) : (recordCrcs s).chLen = s.chLen := rfl
@[simp] theorem recordCrcs_chType (s : State) : (recordCrcs s).chType = s.chType := rfl
@[simp] theorem recordCrcs_chPayloadOff (s : State) : (recordCrcs s).chPayloadOff = s.chPayloadOff := rfl
@[simp] theorem recordCrcs_chCrc (s : State) : (recordCrcs s).chCrc = s.chCrc := rfl
@[simp] theorem recordCrcs_chValid (s : State) : (recordCrcs s).chValid = s.chValid := rfl
@[simp] theorem recordCrcs_crcStored (s : State) : (recordCrcs s).crcStored = parseStored s := rfl
@[simp] theorem recordCrcs_crcComputed (s : State) : (recordCrcs s).crcComputed = parseComputed s := rfl
@[simp] theorem recordCrcs_outLen (s : State) : (recordCrcs s).outLen = s.outLen := rfl
@[simp] theorem recordCrcs_buf (s : State) : (recordCrcs s).buf = s.buf := rfl
@[simp] theorem recordCrcs_resets (s : State) : (recordCrcs s).resets = s.resets := rfl
@[simp] theorem recordCrcs_stalled (s : State) : (recordCrcs s).stalled = s.stalled := rfl
@[simp] theorem recordCrcs_inbox (s : State) : (recordCrcs s).inbox = s.inbox := rfl
@[simp] theorem recordCrcs_replies (s : State) : (recordCrcs s).replies = s.replies := rfl

/-! ### takeFrame -/

@[simp] theorem takeFrame_cfg (s : State) : (takeFrame s).cfg = s.cfg := rfl
@[simp] theorem takeFrame_bufSize (s : State) : (takeFrame s).bufSize = s.bufSize := rfl
@[simp] theorem takeFrame_cmd (s : State) : (takeFrame s).cmd = s.cmd := rfl
@[simp] theorem takeFrame_busy (s : State) : (takeFrame s).busy = s.busy := rfl
@[simp] theorem takeFrame_done (s : State) : (takeFrame s).done = s.done := rfl
@[simp] theorem takeFrame_err (s : State) : (takeFrame s).err = s.err := rfl
@[simp] theorem takeFrame_ovr (s : State) : (takeFrame s).ovr = s.ovr := rfl
@[simp] theorem takeFrame_errCode (s : State) : (takeFrame s).errCode = s.errCode := rfl
@[simp] theorem takeFrame_ie (s : State) : (takeFrame s).ie = s.ie := rfl
@[simp] theorem takeFrame_crcState (s : State) : (takeFrame s).crcState = s.crcState := rfl
@[simp] theorem takeFrame_srcOff (s : State) : (takeFrame s).srcOff = s.srcOff := rfl
@[simp] theorem takeFrame_srcLen (s : State) : (takeFrame s).srcLen = s.srcLen := rfl
@[simp] theorem takeFrame_dstOff (s : State) : (takeFrame s).dstOff = s.dstOff := rfl
@[simp] theorem takeFrame_typeReg (s : State) : (takeFrame s).typeReg = s.typeReg := rfl
@[simp] theorem takeFrame_typeB (s : State) : (takeFrame s).typeB = s.typeB := rfl
@[simp] theorem takeFrame_chLen (s : State) : (takeFrame s).chLen = parseLen s := rfl
@[simp] theorem takeFrame_chType (s : State) : (takeFrame s).chType = bufBe32 s (s.srcOff.toNat + 4) := rfl
@[simp] theorem takeFrame_chPayloadOff (s : State) : (takeFrame s).chPayloadOff = s.srcOff + 8#32 := rfl
@[simp] theorem takeFrame_chCrc (s : State) : (takeFrame s).chCrc = parseStored s := rfl
@[simp] theorem takeFrame_chValid (s : State) : (takeFrame s).chValid = true := rfl
@[simp] theorem takeFrame_crcStored (s : State) : (takeFrame s).crcStored = parseStored s := rfl
@[simp] theorem takeFrame_crcComputed (s : State) : (takeFrame s).crcComputed = parseComputed s := rfl
@[simp] theorem takeFrame_outLen (s : State) : (takeFrame s).outLen = 12#32 + parseLen s := rfl
@[simp] theorem takeFrame_buf (s : State) : (takeFrame s).buf = s.buf := rfl
@[simp] theorem takeFrame_resets (s : State) : (takeFrame s).resets = s.resets := rfl
@[simp] theorem takeFrame_stalled (s : State) : (takeFrame s).stalled = s.stalled := rfl
@[simp] theorem takeFrame_inbox (s : State) : (takeFrame s).inbox = s.inbox := rfl
@[simp] theorem takeFrame_replies (s : State) : (takeFrame s).replies = s.replies := rfl

end Sys2Proof.Machine
end

