-- ==== Sys2Proof/Laws/Flags.lean ====
section
/-! SUPPORT. The bits of the flag words. -/

namespace Sys2Proof.Machine

@[simp] theorem flagAt_getLsbD (i k : Nat) (b : Bool) (h : k < 32) :
    (flagAt i b).getLsbD k = (decide (k = i) && b) := by
  simp only [flagAt, BitVec.getLsbD_shiftLeft, BitVec.getLsbD_setWidth, BitVec.getLsbD_ofBool]
  by_cases hk : k = i
  · subst hk
    simp [h]
  · by_cases hl : k < i
    · simp [hl, hk]
    · simp [hl, hk, show k - i ≠ 0 by omega]

@[simp] theorem flagAt_getElem (i k : Nat) (b : Bool) (h : k < 32) : (flagAt i b)[k] = (decide (k = i) && b) := by
  rw [← BitVec.getLsbD_eq_getElem, flagAt_getLsbD i k b h]

end Sys2Proof.Machine
end

