-- ==== Sys2Proof/Laws/Memory.lean ====
section
/-! SUPPORT. The laws of BUF: reading after writing, and that every memory operation keeps the canonical form. -/

namespace Sys2Proof.Machine

/-! ### Reading after writing -/

@[simp] theorem Memory.unlisted_eq : Memory.unlisted = none := rfl

@[simp] theorem Memory.get_nil (o : Nat) : Memory.get [] o = none := rfl

@[simp] theorem Memory.get_set_same (m : Memory) (o : Nat) (v : Byte) :
    Memory.get (Memory.set m o v) o = some v := by
  induction m with
  | nil => simp [Memory.set, Memory.get]
  | cons c m ih =>
    obtain ⟨a, w⟩ := c
    by_cases h1 : o < a
    · simp [Memory.set, Memory.get, h1]
    · by_cases h2 : o = a
      · simp [Memory.set, Memory.get, h2]
      · simp [Memory.set, Memory.get, h1, h2, ih]

theorem Memory.get_set_other (m : Memory) (o p : Nat) (v : Byte) (h : p ≠ o) :
    Memory.get (Memory.set m o v) p = Memory.get m p := by
  induction m with
  | nil => simp [Memory.set, Memory.get, h]
  | cons c m ih =>
    obtain ⟨a, w⟩ := c
    by_cases h1 : o < a
    · simp [Memory.set, Memory.get, h1, h]
    · by_cases h2 : o = a
      · subst h2
        simp [Memory.set, Memory.get, h]
      · by_cases h3 : p = a
        · simp [Memory.set, Memory.get, h1, h2, h3]
        · simp [Memory.set, Memory.get, h1, h2, h3, ih]

theorem Memory.get_setAll_outside (m : Memory) (o p : Nat) (bs : List Byte)
    (h : p < o ∨ o + bs.length ≤ p) : Memory.get (Memory.setAll m o bs) p = Memory.get m p := by
  induction bs generalizing m o with
  | nil => rfl
  | cons b bs ih =>
    simp only [List.length_cons] at h
    rw [Memory.setAll, ih _ _ (by omega), Memory.get_set_other _ _ _ _ (by omega)]

theorem Memory.get_setAll_inside (m : Memory) (o k : Nat) (bs : List Byte) (h : k < bs.length) :
    Memory.get (Memory.setAll m o bs) (o + k) = some bs[k] := by
  induction bs generalizing m o k with
  | nil => simp at h
  | cons b bs ih =>
    cases k with
    | zero => rw [Memory.setAll, Memory.get_setAll_outside _ _ _ _ (by omega)]; simp
    | succ k =>
      have := ih (Memory.set m o b) (o + 1) k (by simpa using h)
      rw [Memory.setAll, show o + (k + 1) = o + 1 + k by omega, this]; simp

/-! ### The canonical form -/

theorem Memory.risingFrom_weaken (m : Memory) {lo hi : Nat} (h : lo ≤ hi)
    (hm : Memory.risingFrom hi m = true) : Memory.risingFrom lo m = true := by
  cases m with
  | nil => rfl
  | cons c m => simp [Memory.risingFrom] at hm ⊢; exact ⟨by omega, hm.2⟩

theorem Memory.risingFrom_set (m : Memory) (lo o : Nat) (v : Byte) (h : Memory.risingFrom lo m = true)
    (ho : lo ≤ o) : Memory.risingFrom lo (Memory.set m o v) = true := by
  induction m generalizing lo with
  | nil => simp [Memory.set, Memory.risingFrom, ho]
  | cons c m ih =>
    obtain ⟨a, w⟩ := c
    simp only [Memory.risingFrom, Bool.and_eq_true, decide_eq_true_eq] at h
    by_cases h1 : o < a
    · simp only [Memory.set, h1, if_true, Memory.risingFrom, Bool.and_eq_true, decide_eq_true_eq]
      exact ⟨ho, by omega, h.2⟩
    · by_cases h2 : o = a
      · subst h2
        simpa [Memory.set, Memory.risingFrom, ho] using h.2
      · simp only [Memory.set, h1, h2, if_false, Memory.risingFrom, Bool.and_eq_true, decide_eq_true_eq]
        exact ⟨h.1, ih (a + 1) h.2 (by omega)⟩

/-- The second clause of the canonical form holds of every memory: an unlisted offset holds no byte. -/
theorem Memory.all_listed (m : Memory) : m.all (fun c => some c.2 != Memory.unlisted) = true := by
  simp [Memory.unlisted]

@[simp] theorem Memory.wf_nil : Memory.wf [] = true := rfl

theorem Memory.wf_set (m : Memory) (o : Nat) (v : Byte) (h : Memory.wf m = true) :
    Memory.wf (Memory.set m o v) = true := by
  simp only [Memory.wf, Memory.all_listed, Bool.and_true] at h ⊢
  exact Memory.risingFrom_set m 0 o v h (Nat.zero_le _)

theorem Memory.wf_setAll (m : Memory) (o : Nat) (bs : List Byte) (h : Memory.wf m = true) :
    Memory.wf (Memory.setAll m o bs) = true := by
  induction bs generalizing m o with
  | nil => exact h
  | cons b bs ih => exact ih _ _ (Memory.wf_set m o b h)

theorem Memory.below_set (m : Memory) (o size : Nat) (v : Byte) (h : Memory.below m size = true)
    (ho : o < size) : Memory.below (Memory.set m o v) size = true := by
  induction m with
  | nil => simp [Memory.set, Memory.below, ho]
  | cons c m ih =>
    obtain ⟨a, w⟩ := c
    simp only [Memory.below, List.all_cons, Bool.and_eq_true, decide_eq_true_eq] at h ih ⊢
    by_cases h1 : o < a
    · simp only [Memory.set, h1, if_true, List.all_cons, Bool.and_eq_true, decide_eq_true_eq]
      exact ⟨ho, h⟩
    · by_cases h2 : o = a
      · subst h2
        simpa [Memory.set] using h
      · simp only [Memory.set, h1, h2, if_false, List.all_cons, Bool.and_eq_true, decide_eq_true_eq]
        exact ⟨h.1, ih h.2⟩

theorem Memory.below_setAll (m : Memory) (o size : Nat) (bs : List Byte) (h : Memory.below m size = true)
    (ho : o + bs.length ≤ size) : Memory.below (Memory.setAll m o bs) size = true := by
  induction bs generalizing m o with
  | nil => exact h
  | cons b bs ih =>
    simp only [List.length_cons] at ho
    exact ih _ _ (Memory.below_set m o size b h (by omega)) (by omega)

theorem Memory.get_below (m : Memory) (lo o : Nat) (h : Memory.risingFrom lo m = true) (ho : o < lo) :
    Memory.get m o = none := by
  induction m generalizing lo with
  | nil => rfl
  | cons c m ih =>
    obtain ⟨a, w⟩ := c
    simp only [Memory.risingFrom, Bool.and_eq_true, decide_eq_true_eq] at h
    simp only [Memory.get, show o ≠ a by omega, if_false]
    exact ih (a + 1) h.2 (by omega)

theorem Memory.ext_of_rising (m n : Memory) (lo lo' : Nat) (hm : Memory.risingFrom lo m = true)
    (hn : Memory.risingFrom lo' n = true) (h : ∀ o, Memory.get m o = Memory.get n o) : m = n := by
  induction m generalizing n lo lo' with
  | nil =>
    cases n with
    | nil => rfl
    | cons c n => simpa [Memory.get] using h c.1
  | cons c m ih =>
    obtain ⟨a, w⟩ := c
    cases n with
    | nil => simpa [Memory.get] using h a
    | cons d n =>
      obtain ⟨b, v⟩ := d
      simp only [Memory.risingFrom, Bool.and_eq_true, decide_eq_true_eq] at hm hn
      have hab : a = b := by
        rcases Nat.lt_trichotomy a b with hlt | heq | hgt
        · have ha := h a
          simp [Memory.get, show a ≠ b by omega, Memory.get_below n (b + 1) a hn.2 (by omega)] at ha
        · exact heq
        · have hb := h b
          simp [Memory.get, show b ≠ a by omega, Memory.get_below m (a + 1) b hm.2 (by omega)] at hb
      subst hab
      have hv := h a
      simp only [Memory.get, if_true, Option.some.injEq] at hv
      subst hv
      congr 1
      refine ih n (a + 1) (a + 1) hm.2 hn.2 (fun o => ?_)
      by_cases ho : o = a
      · rw [ho, Memory.get_below m (a + 1) a hm.2 (by omega), Memory.get_below n (a + 1) a hn.2 (by omega)]
      · simpa [Memory.get, ho] using h o

/-- The canonical form makes equal contents equal data: two canonical memories that hold the same bytes are equal. -/
theorem Memory.ext_of_wf {m n : Memory} (hm : Memory.wf m = true) (hn : Memory.wf n = true)
    (h : ∀ o, Memory.get m o = Memory.get n o) : m = n := by
  simp only [Memory.wf, Memory.all_listed, Bool.and_true] at hm hn
  exact Memory.ext_of_rising m n 0 0 hm hn h

/-! ### The bytes of BUF -/

theorem bufByte_bufWrite_outside (s : State) (o a : Nat) (bs : List Byte) (h : a < o ∨ o + bs.length ≤ a) :
    bufByte (bufWrite o bs s) a = bufByte s a := by
  simp [bufByte, Memory.get_setAll_outside _ _ _ _ h]

theorem bufByte_bufWrite_inside (s : State) (o k : Nat) (bs : List Byte) (h : k < bs.length) :
    bufByte (bufWrite o bs s) (o + k) = bs[k] := by
  simp [bufByte, Memory.get_setAll_inside _ _ _ _ h]

/-- A byte of BUF depends on the written bytes and on the reset count alone. -/
theorem bufByte_congr {s t : State} (hb : t.buf = s.buf) (hr : t.resets = s.resets) (a : Nat) :
    bufByte t a = bufByte s a := by
  simp [bufByte, hb, hr]

@[simp] theorem bufRead_length (s : State) (o n : Nat) : (bufRead s o n).length = n := by
  induction n generalizing o with
  | zero => rfl
  | succ n ih => simp [bufRead, ih]

@[simp] theorem bufRead_getElem (s : State) (o n k : Nat) (h : k < (bufRead s o n).length) :
    (bufRead s o n)[k] = bufByte s (o + k) := by
  induction n generalizing o k with
  | zero => simp at h
  | succ n ih =>
    cases k with
    | zero => rfl
    | succ k =>
      simp only [bufRead, List.getElem_cons_succ]
      rw [ih (o + 1) k (by simpa [bufRead] using h), show o + 1 + k = o + (k + 1) by omega]

theorem bufRead_append (s : State) (o m n : Nat) : bufRead s o (m + n) = bufRead s o m ++ bufRead s (o + m) n := by
  induction m generalizing o with
  | zero => simp [bufRead]
  | succ m ih => rw [show m + 1 + n = m + n + 1 by omega, bufRead, bufRead, ih (o + 1),
      show o + 1 + m = o + (m + 1) by omega, List.cons_append]

/-- Two ranges with the same bytes read the same. -/
theorem bufRead_congr (s t : State) (o p n : Nat) (h : ∀ k < n, bufByte t (p + k) = bufByte s (o + k)) :
    bufRead t p n = bufRead s o n := by
  apply List.ext_getElem (by simp)
  intro k h1 h2
  simp at h1
  simp [h k h1]

end Sys2Proof.Machine
end

