-- ==== Sys2Proof/Laws/Operands.lean ====
section
/-! SUPPORT. The operand forms as numbers: be32 and from_be32, the bytes of a word, the bytes of a frame, and the byte
lanes of the host bus. -/

namespace Sys2Proof.Machine

/-- The number a big-endian word of four bytes stands for (00_scope.md R11). -/
theorem fromBe32_toNat (a b c d : Byte) :
    (fromBe32 a b c d).toNat = a.toNat * 2 ^ 24 + b.toNat * 2 ^ 16 + c.toNat * 2 ^ 8 + d.toNat := by
  have ha := a.isLt
  have hb := b.isLt
  have hc := c.isLt
  have hd := d.isLt
  simp only [fromBe32, BitVec.toNat_append]
  rw [← Nat.shiftLeft_add_eq_or_of_lt hb, ← Nat.shiftLeft_add_eq_or_of_lt hc, ← Nat.shiftLeft_add_eq_or_of_lt hd]
  simp only [Nat.shiftLeft_eq]
  omega

theorem numberAt_lt (s : State) (o : Nat) : numberAt s o < 2 ^ 32 := by
  have h0 := (bufByte s o).isLt
  have h1 := (bufByte s (o + 1)).isLt
  have h2 := (bufByte s (o + 2)).isLt
  have h3 := (bufByte s (o + 3)).isLt
  unfold numberAt
  omega

@[simp] theorem bufBe32_toNat (s : State) (o : Nat) : (bufBe32 s o).toNat = numberAt s o := by
  simp [bufBe32, fromBe32_toNat, numberAt]

theorem bufBe32_eq_ofNat (s : State) (o : Nat) : bufBe32 s o = BitVec.ofNat 32 (numberAt s o) := by
  apply BitVec.eq_of_toNat_eq
  rw [bufBe32_toNat, BitVec.toNat_ofNat, Nat.mod_eq_of_lt (numberAt_lt s o)]

theorem bufBe32_congr (s t : State) (o p : Nat) (h : ∀ k < 4, bufByte t (p + k) = bufByte s (o + k)) :
    bufBe32 t p = bufBe32 s o := by
  have h0 := h 0 (by omega)
  have h1 := h 1 (by omega)
  have h2 := h 2 (by omega)
  have h3 := h 3 (by omega)
  simp only [Nat.add_zero] at h0
  simp [bufBe32, h0, h1, h2, h3]

/-- byte_i of a word as a number. -/
theorem typeByte_toNat (v : Word) (i : Nat) (h : i < 4) : (typeByte v i).toNat = v.toNat / 256 ^ (3 - i) % 256 := by
  have : 256 ^ (3 - i) = 2 ^ (24 - 8 * i) := by
    rw [show (256 : Nat) = 2 ^ 8 by rfl, ← Nat.pow_mul]; congr 1; omega
  simp [typeByte, BitVec.extractLsb', Nat.shiftRight_eq_div_pow, this]

@[simp] theorem be32_length (v : Word) : (be32 v).length = 4 := rfl

@[simp] theorem be32_getElem (v : Word) (k : Nat) (h : k < (be32 v).length) : (be32 v)[k] = typeByte v k := by
  match k, h with
  | 0, _ => rfl
  | 1, _ => rfl
  | 2, _ => rfl
  | 3, _ => rfl

/-- from_be32 undoes be32. -/
theorem fromBe32_be32 (v : Word) : fromBe32 (typeByte v 0) (typeByte v 1) (typeByte v 2) (typeByte v 3) = v := by
  apply BitVec.eq_of_toNat_eq
  have := v.isLt
  rw [fromBe32_toNat, typeByte_toNat v 0 (by omega), typeByte_toNat v 1 (by omega), typeByte_toNat v 2 (by omega),
    typeByte_toNat v 3 (by omega)]
  norm_num
  omega

/-- The bytes of from_be32. -/
theorem typeByte_fromBe32 (a b c d : Byte) :
    typeByte (fromBe32 a b c d) 0 = a ∧ typeByte (fromBe32 a b c d) 1 = b ∧ typeByte (fromBe32 a b c d) 2 = c ∧
      typeByte (fromBe32 a b c d) 3 = d := by
  have ha := a.isLt
  have hb := b.isLt
  have hc := c.isLt
  have hd := d.isLt
  refine ⟨?_, ?_, ?_, ?_⟩ <;> apply BitVec.eq_of_toNat_eq <;>
    rw [typeByte_toNat _ _ (by omega), fromBe32_toNat] <;> norm_num <;> omega

theorem typeByte_bufBe32 (s : State) (o k : Nat) (h : k < 4) : typeByte (bufBe32 s o) k = bufByte s (o + k) := by
  have := typeByte_fromBe32 (bufByte s o) (bufByte s (o + 1)) (bufByte s (o + 2)) (bufByte s (o + 3))
  match k, h with
  | 0, _ => exact this.1
  | 1, _ => exact this.2.1
  | 2, _ => exact this.2.2.1
  | 3, _ => exact this.2.2.2

/-- Four bytes of BUF are the be32 of their word. -/
theorem be32_bufBe32 (s : State) (o : Nat) : be32 (bufBe32 s o) = bufRead s o 4 := by
  apply List.ext_getElem (by simp)
  intro k h1 h2
  rw [be32_getElem, bufRead_getElem]
  exact typeByte_bufBe32 s o k (by simpa using h1)

/-! ### The bytes of a frame -/

@[simp] theorem frame_length (n t c : Word) (p : List Byte) : (frame n t p c).length = 12 + p.length := by
  simp [frame]; omega

theorem frame_len_byte (n t c : Word) (p : List Byte) (k : Nat) (h : k < 4) (h' : k < (frame n t p c).length) :
    (frame n t p c)[k] = typeByte n k := by
  simp only [frame]
  rw [List.getElem_append_left (by simpa using h), be32_getElem]

theorem frame_type_byte (n t c : Word) (p : List Byte) (k : Nat) (h : k < 4)
    (h' : 4 + k < (frame n t p c).length) : (frame n t p c)[4 + k] = typeByte t k := by
  simp only [frame]
  rw [List.getElem_append_right (by simp), List.getElem_append_left (by simpa using h), be32_getElem]
  simp

theorem frame_payload_byte (n t c : Word) (p : List Byte) (k : Nat) (h : k < p.length)
    (h' : 8 + k < (frame n t p c).length) : (frame n t p c)[8 + k] = p[k] := by
  simp only [frame]
  rw [List.getElem_append_right (by simp; omega), List.getElem_append_right (by simp; omega),
    List.getElem_append_left (by simp; omega)]
  congr 1
  simp
  omega

theorem frame_crc_byte (n t c : Word) (p : List Byte) (k : Nat) (h : k < 4)
    (h' : 8 + p.length + k < (frame n t p c).length) : (frame n t p c)[8 + p.length + k] = typeByte c k := by
  simp only [frame]
  rw [List.getElem_append_right (by simp; omega), List.getElem_append_right (by simp; omega),
    List.getElem_append_right (by simp; omega), be32_getElem]
  congr 1
  simp only [be32_length]
  omega

/-! ### Byte lanes -/

@[simp] theorem toLanes_length (n : Nat) (v : Word) : (toLanes n v).length = n := by
  induction n generalizing v with
  | zero => rfl
  | succ n ih => simp [toLanes, ih]

theorem toLanes_getElem_toNat (n : Nat) (v : Word) (k : Nat) (h : k < (toLanes n v).length) :
    ((toLanes n v)[k]).toNat = v.toNat / 256 ^ k % 256 := by
  induction n generalizing v k with
  | zero => simp at h
  | succ n ih =>
    cases k with
    | zero => simp [toLanes]
    | succ k =>
      simp only [toLanes, List.getElem_cons_succ]
      rw [ih _ k (by simpa [toLanes] using h)]
      simp only [BitVec.toNat_ushiftRight, Nat.shiftRight_eq_div_pow]
      rw [Nat.div_div_eq_div_mul, show 2 ^ 8 * 256 ^ k = 256 ^ (k + 1) by rw [Nat.pow_succ 256]; omega]

/-- Up to four bytes in little-endian lanes as a number: the first byte is the lowest. -/
theorem fromLanes_cons_toNat (b : Byte) (bs : List Byte) (h : (fromLanes bs).toNat < 2 ^ 24) :
    (fromLanes (b :: bs)).toNat = b.toNat + 256 * (fromLanes bs).toNat := by
  have hb := b.isLt
  simp only [fromLanes, BitVec.toNat_or, BitVec.toNat_setWidth, BitVec.toNat_shiftLeft]
  rw [Nat.mod_eq_of_lt (by omega), Nat.mod_eq_of_lt (by rw [Nat.shiftLeft_eq]; omega), Nat.or_comm,
    ← Nat.shiftLeft_add_eq_or_of_lt hb, Nat.shiftLeft_eq]
  omega

end Sys2Proof.Machine
end

