-- ==== Sys2Proof/Laws/Bus.lean ====
section
/-! SUPPORT. What a host access can do, said once. -/

namespace Sys2Proof.Machine

/-- What a host write to the register window can do: nothing, a command cycle effect, or one operand register. -/
theorem writeWindow_cases (o : Nat) (v : Word) (s : State) :
    writeWindow o v s = s ∨
    (o = 0x04 ∧ writeWindow o v s = writeCmd v s) ∨
    (o = 0x08 ∧ writeWindow o v s = writeStatus v s) ∨
    (o = 0x0C ∧ writeWindow o v s = { s with ie := v.getLsbD 0 }) ∨
    (o = 0x10 ∧ writeWindow o v s = { s with crcState := v }) ∨
    (o = 0x18 ∧ writeWindow o v s = { s with srcOff := v }) ∨
    (o = 0x1C ∧ writeWindow o v s = { s with srcLen := v }) ∨
    (o = 0x20 ∧ writeWindow o v s = { s with dstOff := v }) ∨
    (o = 0x24 ∧ writeWindow o v s = { s with typeReg := v }) ∨
    (o = 0x28 ∧ writeWindow o v s = { s with typeB := v }) := by
  unfold writeWindow regAt
  split <;> rename_i r hr
  · split at hr <;> cases hr <;> simp [writeReg]
  · exact .inl rfl

theorem writeCmd_busy (w : Word) (s : State) (h : s.busy = true) : writeCmd w s = { s with ovr := true } := by
  simp [writeCmd, h]

theorem writeCmd_idle (w : Word) (s : State) (h : s.busy = false) : writeCmd w s = acceptCommand w s := by
  simp [writeCmd, h]

/-- What a host access can do: it only replies, or it writes the register window, or it writes BUF inside it. -/
theorem performAccess_cases (a : HostAccess) (s : State) :
    (∃ r, performAccess a s = reply r s) ∨
    (∃ v, a = ⟨.registers, a.offset, 32, .write v⟩ ∧ admissible s.cfg a = true ∧
      performAccess a s = reply .accepted (writeWindow a.offset v s)) ∨
    (∃ v, a.window = .buffer ∧ a.kind = .write v ∧ admissible s.cfg a = true ∧
      a.offset + a.width / 8 ≤ s.bufSize ∧
      performAccess a s = reply .accepted (bufWrite a.offset (toLanes (a.width / 8) v) s)) := by
  obtain ⟨w, o, n, k⟩ := a
  by_cases ha : admissible s.cfg ⟨w, o, n, k⟩ = true
  · cases w with
    | registers =>
      have hn : n = 32 := by
        simp only [admissible, Bool.and_eq_true, beq_iff_eq] at ha
        exact ha.1.1
      subst hn
      cases k with
      | read => exact .inl ⟨.data (readWindow s o), by simp [performAccess, ha]⟩
      | write v => exact .inr (.inl ⟨v, rfl, ha, by simp [performAccess, ha]⟩)
    | buffer =>
      have hn : o + n / 8 ≤ s.bufSize := by
        simp only [admissible, Bool.and_eq_true, decide_eq_true_eq] at ha
        exact ha.2
      cases k with
      | read => exact .inl ⟨.data (fromLanes (bufRead s o (n / 8))), by simp [performAccess, ha]⟩
      | write v => exact .inr (.inr ⟨v, rfl, rfl, ha, hn, by simp [performAccess, ha]⟩)
  · exact .inl ⟨.busError, by simp [performAccess, ha]⟩

/-- The stalling kind of access (40_command_cycle.md R136), by window, offset, width and kind. -/
theorem stallable_iff (c : Config) (a : HostAccess) : stallable c a = true ↔
    (a.window = .registers ∧ (a.width = 32 ∧ a.offset % 4 = 0) ∧ (∃ v, a.kind = .write v) ∧
      a.offset ∈ [0x10, 0x18, 0x1C, 0x20, 0x24, 0x28]) ∨
    (a.window = .buffer ∧ a.offset + a.width / 8 ≤ c.bufSize ∧
      (a.width = 8 ∨ (a.width = 16 ∧ a.offset % 2 = 0) ∨ (a.width = 32 ∧ a.offset % 4 = 0))) := by
  obtain ⟨w, o, n, k⟩ := a
  cases w with
  | buffer =>
    simp only [stallable, admissible, Bool.and_true, Bool.and_eq_true, Bool.or_eq_true, beq_iff_eq,
      decide_eq_true_eq, reduceCtorEq, false_and, false_or, true_and]
    tauto
  | registers =>
    cases k with
    | read => simp [stallable]
    | write v =>
      simp only [stallable, admissible, Bool.and_eq_true, beq_iff_eq, regWindowSize]
      constructor
      · rintro ⟨⟨⟨h1, h2⟩, h3⟩, h4⟩
        refine .inl ⟨trivial, ⟨h1, h2⟩, ⟨v, rfl⟩, ?_⟩
        unfold regAt at h4
        split at h4 <;> simp [Reg.stallsOnWrite] at h4 <;> simp
      · rintro (⟨-, ⟨h1, h2⟩, -, h4⟩ | ⟨h, -⟩)
        · simp only [List.mem_cons, List.not_mem_nil, or_false] at h4
          refine ⟨⟨⟨h1, h2⟩, decide_eq_true (by omega)⟩, ?_⟩
          rcases h4 with h | h | h | h | h | h <;> subst h <;> rfl
        · cases h

end Sys2Proof.Machine
end

