-- ==== Sys2Proof/Laws/Crc.lean ====
section
/-! SUPPORT. The laws of the CRC function (41_crc.md R151, R153). -/

namespace Sys2Proof.Machine

@[simp] theorem crcFold_nil (c : Word) : crcFold c [] = c := rfl

@[simp] theorem crcFold_cons (c : Word) (b : Byte) (bs : List Byte) :
    crcFold c (b :: bs) = crcFold (crcStep c b) bs := rfl

/-- A sequence may be fed in any split (R153(a)). -/
theorem crcFold_append (c : Word) (xs ys : List Byte) : crcFold c (xs ++ ys) = crcFold (crcFold c xs) ys := by
  induction xs generalizing c with
  | nil => rfl
  | cons b xs ih => exact ih _

/-- CRC_RESULT is the CRC of what has been folded in since the initial value (R157). -/
theorem crcResult_of_fold (s : State) (bs : List Byte) (h : s.crcState = crcFold crcInitValue bs) :
    crcResult s = crc32 bs := by
  simp [crcResult, crc32, crcFinalXor, h]

end Sys2Proof.Machine
end

