-- ==== Sys2Proof/Laws/Encoding.lean ====
section
/-! SUPPORT. Command words as numbers: the fields of a word, and the fields of an encoded word. -/

namespace Sys2Proof

theorem cmdFields_opc_toNat (w : Word) : (cmdFields w).opc.toNat = w.toNat % 256 := by
  simp [cmdFields, BitVec.extractLsb']

theorem cmdFields_imm8_toNat (w : Word) : (cmdFields w).imm8.toNat = w.toNat / 256 % 256 := by
  simp [cmdFields, BitVec.extractLsb', Nat.shiftRight_eq_div_pow]

theorem cmdFields_rsvd_toNat (w : Word) : (cmdFields w).rsvd.toNat = w.toNat / 65536 := by
  have := w.isLt
  simp only [cmdFields, BitVec.extractLsb', Nat.shiftRight_eq_div_pow, BitVec.toNat_ofNat]
  omega

theorem encode_toNat (i : Instr) : (encode i).toNat = i.immediate.toNat * 256 + i.opcode.toNat := by
  have ho := i.opcode.isLt
  simp only [encode, BitVec.toNat_append, BitVec.toNat_ofNat, Nat.zero_mod, Nat.zero_shiftLeft, Nat.zero_or]
  rw [← Nat.shiftLeft_add_eq_or_of_lt ho, Nat.shiftLeft_eq]

/-- The fields of an encoded word are the command's opcode and immediate, and zeros (30_encoding.md R100). -/
theorem cmdFields_encode (i : Instr) : cmdFields (encode i) = ⟨i.opcode, i.immediate, 0#16⟩ := by
  have ho := i.opcode.isLt
  have hi := i.immediate.isLt
  have h1 : (cmdFields (encode i)).opc = i.opcode :=
    BitVec.eq_of_toNat_eq (by rw [cmdFields_opc_toNat, encode_toNat]; omega)
  have h2 : (cmdFields (encode i)).imm8 = i.immediate :=
    BitVec.eq_of_toNat_eq (by rw [cmdFields_imm8_toNat, encode_toNat]; omega)
  have h3 : (cmdFields (encode i)).rsvd = 0#16 :=
    BitVec.eq_of_toNat_eq (by rw [cmdFields_rsvd_toNat, encode_toNat]; simp; omega)
  rw [← h1, ← h2, ← h3]

end Sys2Proof
end

