-- ==== Sys2Proof/Laws/Exec.lean ====
section
/-! SUPPORT. What each meaning can do, said once: if it answers a next state, one of the cases its rule gives holds. -/

namespace Sys2Proof.Machine

theorem srcInBuf_iff (s : State) : srcInBuf s = true ↔ s.srcOff.toNat + s.srcLen.toNat ≤ s.bufSize := by
  simp [srcInBuf]

theorem overlaps_iff (p n d : Nat) : overlaps p n d = true ↔ 0 < n ∧ p < d + 12 + n ∧ d < p + n ∧ p ≠ d + 8 := by
  simp [overlaps, and_assoc]

theorem complete_ok_eq (s : State) : complete .ok s = succeeded s := rfl

theorem raise_eq (e : ErrCode) (s : State) (h : e ≠ .ok) : raise e s = failedWith e s := by
  simp [raise, complete, failedWith, h]

@[simp] theorem emitFrame_length (s : State) : (emitFrame s).length = 12 + s.chLen.toNat := by
  simp [emitFrame]

theorem execCrcBuf_cases {s t : State} (h : execCrcBuf s = .next t) :
    (srcInBuf s = true ∧ t = succeeded { s with crcState := crcFold s.crcState (srcBytes s) }) ∨
    t = failedWith .range s := by
  unfold execCrcBuf at h
  split at h
  · exact .inl ⟨‹_›, (Host.Outcome.next.inj h).symm⟩
  · exact .inr (Host.Outcome.next.inj h).symm

theorem execTypeLoadStr_cases {s t : State} (h : execTypeLoadStr s = .next t) :
    (srcInBuf s = true ∧ 4 ≤ s.srcLen.toNat ∧ allLetters (bufBe32 s s.srcOff.toNat) = true ∧
      t = succeeded { s with typeReg := bufBe32 s s.srcOff.toNat }) ∨
    t = failedWith .range s ∨ t = failedWith .invalidChunkType s := by
  unfold execTypeLoadStr at h
  split at h
  · split at h
    · exact .inr (.inr (Host.Outcome.next.inj h).symm)
    · split at h
      · exact .inl ⟨‹_›, by omega, ‹_›, (Host.Outcome.next.inj h).symm⟩
      · exact .inr (.inr (Host.Outcome.next.inj h).symm)
  · exact .inr (.inl (Host.Outcome.next.inj h).symm)

theorem execChunkNew_cases {s t : State} (h : execChunkNew s = .next t) :
    (srcInBuf s = true ∧ t = succeeded
      (setDescriptor s.srcLen s.typeReg s.srcOff (crc32 (be32 s.typeReg ++ srcBytes s)) s)) ∨
    t = failedWith .range s := by
  unfold execChunkNew at h
  split at h
  · exact .inl ⟨‹_›, (Host.Outcome.next.inj h).symm⟩
  · exact .inr (Host.Outcome.next.inj h).symm

theorem execChunkParse_cases {s t : State} (h : execChunkParse s = .next t) :
    (srcInBuf s = true ∧ (parseLen s).toNat + 12 ≤ s.srcLen.toNat ∧ parseComputed s = parseStored s ∧
      t = succeeded (takeFrame s)) ∨
    t = failedWith .range s ∨ t = failedWith .tooShort s ∨ t = failedWith .truncated s ∨
    (srcInBuf s = true ∧ (parseLen s).toNat + 12 ≤ s.srcLen.toNat ∧ parseComputed s ≠ parseStored s ∧
      t = failedWith .crcMismatch (recordCrcs s)) := by
  unfold execChunkParse at h
  split at h
  · split at h
    · exact .inr (.inr (.inl (Host.Outcome.next.inj h).symm))
    · split at h
      · exact .inr (.inr (.inr (.inl (Host.Outcome.next.inj h).symm)))
      · split at h
        · exact .inr (.inr (.inr (.inr ⟨‹_›, by omega, ‹_›, (Host.Outcome.next.inj h).symm⟩)))
        · exact .inl ⟨‹_›, by omega, not_ne_iff.mp ‹_›, (Host.Outcome.next.inj h).symm⟩
  · exact .inr (.inl (Host.Outcome.next.inj h).symm)

theorem execChunkEmit_cases {s t : State} (h : execChunkEmit s = .next t) :
    (s.chValid = true ∧ s.dstOff.toNat + 12 + s.chLen.toNat ≤ s.bufSize ∧
      overlaps s.chPayloadOff.toNat s.chLen.toNat s.dstOff.toNat = false ∧
      s.chPayloadOff.toNat + s.chLen.toNat ≤ s.bufSize ∧
      t = succeeded { bufWrite s.dstOff.toNat (emitFrame s) s with outLen := 12#32 + s.chLen }) ∨
    t = failedWith .range s ∨ t = failedWith .overlap s ∨ t = failedWith .noChunk s := by
  unfold execChunkEmit at h
  split at h
  · split at h
    · exact .inr (.inl (Host.Outcome.next.inj h).symm)
    · split at h
      · exact .inr (.inr (.inl (Host.Outcome.next.inj h).symm))
      · split at h
        · cases h
        · exact .inl ⟨‹_›, by omega, Bool.eq_false_iff.mpr ‹_›, by omega, (Host.Outcome.next.inj h).symm⟩
  · exact .inr (.inr (.inr (Host.Outcome.next.inj h).symm))

/-- CHUNK_EMIT is the one command that can stop, and only on a payload outside BUF. -/
theorem execChunkEmit_answers (s : State) (h : s.chPayloadOff.toNat + s.chLen.toNat ≤ s.bufSize) :
    ∃ t, execChunkEmit s = .next t := by
  unfold execChunkEmit
  split
  · split
    · exact ⟨_, rfl⟩
    · split
      · exact ⟨_, rfl⟩
      · rw [if_neg (by omega)]
        exact ⟨_, rfl⟩
  · exact ⟨_, rfl⟩

/-- What any command can do, said once: it either fails with a code, leaving everything but STATUS and, on CRC_MISMATCH,
the two CRC records; or it succeeds with its own outputs. -/
theorem exec_cases {i : Instr} {s t : State} (h : exec i s = .next t) :
    (∃ e, e ≠ .ok ∧ e ≠ .utf8Decode ∧ t = failedWith e s) ∨
    (i = .chunkParse ∧ parseComputed s ≠ parseStored s ∧
      t = failedWith .crcMismatch (recordCrcs s)) ∨
    (i = .nop ∧ t = succeeded s) ∨
    (i = .crcInit ∧ t = succeeded { s with crcState := crcInitValue }) ∨
    (∃ b, i = .crcByte b ∧ t = succeeded { s with crcState := crcStep s.crcState b }) ∨
    (i = .crcBuf ∧ srcInBuf s = true ∧ t = succeeded { s with crcState := crcFold s.crcState (srcBytes s) }) ∨
    (i = .typeLoadStr ∧ t = succeeded { s with typeReg := bufBe32 s s.srcOff.toNat }) ∨
    (i = .chunkNew ∧ srcInBuf s = true ∧ t = succeeded
      (setDescriptor s.srcLen s.typeReg s.srcOff (crc32 (be32 s.typeReg ++ srcBytes s)) s)) ∨
    (i = .chunkParse ∧ srcInBuf s = true ∧ (parseLen s).toNat + 12 ≤ s.srcLen.toNat ∧
      parseComputed s = parseStored s ∧ t = succeeded (takeFrame s)) ∨
    (i = .chunkEmit ∧ s.chValid = true ∧ s.dstOff.toNat + 12 + s.chLen.toNat ≤ s.bufSize ∧
      overlaps s.chPayloadOff.toNat s.chLen.toNat s.dstOff.toNat = false ∧
      t = succeeded { bufWrite s.dstOff.toNat (emitFrame s) s with outLen := 12#32 + s.chLen }) := by
  have fails : ∀ e, e ≠ .ok → e ≠ .utf8Decode → t = failedWith e s →
      ∃ e, e ≠ .ok ∧ e ≠ .utf8Decode ∧ t = failedWith e s := fun e h1 h2 h3 => ⟨e, h1, h2, h3⟩
  cases i with
  | nop => exact .inr (.inr (.inl ⟨rfl, (Host.Outcome.next.inj h).symm⟩))
  | crcInit => exact .inr (.inr (.inr (.inl ⟨rfl, (Host.Outcome.next.inj h).symm⟩)))
  | crcByte b => exact .inr (.inr (.inr (.inr (.inl ⟨b, rfl, (Host.Outcome.next.inj h).symm⟩))))
  | crcBuf =>
    rcases execCrcBuf_cases h with ⟨h1, h2⟩ | h1
    · exact .inr (.inr (.inr (.inr (.inr (.inl ⟨rfl, h1, h2⟩)))))
    · exact .inl (fails _ (by decide) (by decide) h1)
  | typeLoadStr =>
    rcases execTypeLoadStr_cases h with ⟨-, -, -, h2⟩ | h1 | h1
    · exact .inr (.inr (.inr (.inr (.inr (.inr (.inl ⟨rfl, h2⟩))))))
    · exact .inl (fails _ (by decide) (by decide) h1)
    · exact .inl (fails _ (by decide) (by decide) h1)
  | chunkNew =>
    rcases execChunkNew_cases h with ⟨h1, h2⟩ | h1
    · exact .inr (.inr (.inr (.inr (.inr (.inr (.inr (.inl ⟨rfl, h1, h2⟩)))))))
    · exact .inl (fails _ (by decide) (by decide) h1)
  | chunkParse =>
    rcases execChunkParse_cases h with ⟨h1, h2, h3, h4⟩ | h1 | h1 | h1 | ⟨-, -, h3, h4⟩
    · exact .inr (.inr (.inr (.inr (.inr (.inr (.inr (.inr (.inl ⟨rfl, h1, h2, h3, h4⟩))))))))
    · exact .inl (fails _ (by decide) (by decide) h1)
    · exact .inl (fails _ (by decide) (by decide) h1)
    · exact .inl (fails _ (by decide) (by decide) h1)
    · exact .inr (.inl ⟨rfl, h3, h4⟩)
  | chunkEmit =>
    rcases execChunkEmit_cases h with ⟨h1, h2, h3, -, h5⟩ | h1 | h1 | h1
    · exact .inr (.inr (.inr (.inr (.inr (.inr (.inr (.inr (.inr ⟨rfl, h1, h2, h3, h5⟩))))))))
    · exact .inl (fails _ (by decide) (by decide) h1)
    · exact .inl (fails _ (by decide) (by decide) h1)
    · exact .inl (fails _ (by decide) (by decide) h1)

/-- A command that answers a next state hands it to the commands after it. -/
theorem execAll_cons_next {i : Instr} {is : List Instr} {s t : State} (h : exec i s = .next t) :
    execAll (i :: is) s = execAll is t := by
  rw [execAll, h]

@[simp] theorem execAll_nil (s : State) : execAll [] s = .next s := rfl

@[simp] theorem bytesFed_crcByte (s : State) (b : Byte) : bytesFed s (.crcByte b) = [b] := rfl

@[simp] theorem bytesFed_crcBuf (s : State) : bytesFed s .crcBuf = srcBytes s := rfl

/-- A CRC_BYTE or CRC_BUF command whose source range lies in BUF folds the bytes it feeds. -/
theorem exec_crc_feeds {i : Instr} {s : State} (hi : i = .crcBuf ∨ ∃ b, i = .crcByte b)
    (hr : i = .crcBuf → srcInBuf s = true) :
    exec i s = .next (succeeded { s with crcState := crcFold s.crcState (bytesFed s i) }) := by
  obtain rfl | ⟨b, rfl⟩ := hi
  · simp [exec, execCrcBuf, hr rfl, complete_ok_eq]
  · rfl

end Sys2Proof.Machine
end

