-- ==== Sys2Proof/Laws/PerInstr.lean ====
section
/-! SUPPORT. Statements made per command: the word of every command is legal (30_encoding.md R104) and carries the
command's opcode and immediate (R100, R103). -/

namespace Sys2Proof.Laws.Encoding

/-- The encoding of a command is a legal word whose OPC and IMM8 fields are the command's own. -/
def Statement (i : Instr) : Prop :=
  i.wellFormed = true ∧ legalWord (encode i) = true ∧ cmdFields (encode i) = ⟨i.opcode, i.immediate, 0#16⟩

theorem nop : Statement .nop := ⟨rfl, by decide, cmdFields_encode _⟩

theorem crcInit : Statement .crcInit := ⟨rfl, by decide, cmdFields_encode _⟩

theorem crcByte (imm8 : Byte) : Statement (.crcByte imm8) :=
  ⟨rfl, by simp [legalWord, cmdFields_encode, CmdFields.wellFormed, CmdFields.opcodeDefined, CmdFields.reservedClear,
    CmdFields.immediateAllowed, Instr.opcode, definedOpcodes], cmdFields_encode _⟩

theorem crcBuf : Statement .crcBuf := ⟨rfl, by decide, cmdFields_encode _⟩

theorem typeLoadStr : Statement .typeLoadStr := ⟨rfl, by decide, cmdFields_encode _⟩

theorem chunkNew : Statement .chunkNew := ⟨rfl, by decide, cmdFields_encode _⟩

theorem chunkParse : Statement .chunkParse := ⟨rfl, by decide, cmdFields_encode _⟩

theorem chunkEmit : Statement .chunkEmit := ⟨rfl, by decide, cmdFields_encode _⟩

end Sys2Proof.Laws.Encoding
end

