-- ==== Sys2Proof/Laws/Step.lean ====
section
/-! SUPPORT. What a step can do, said once; every claim about steps starts from these cases. -/

namespace Sys2Proof.Machine

/-- A completion is the command that CMD names, or the completion of an illegal word. -/
theorem completionStep_cases {s t : State} (h : completionStep s = .next t) :
    (∃ i, decode s.cmd = .ok i ∧ exec i s = .next t) ∨
    ((∃ e, decode s.cmd = .error e) ∧ t = failedWith .illegalCommand s) := by
  unfold completionStep at h
  split at h
  · exact .inl ⟨_, ‹_›, h⟩
  · exact .inr ⟨⟨_, ‹_›⟩, (Host.Outcome.next.inj h).symm⟩

/-- What a step can do: a completion, a stalled access performed, nothing, a reset, an access that stalls, or an access
performed. -/
theorem step_cases {s t : State} (h : step s = .next t) :
    (∃ inbox, s.busy = true ∧ (inbox = s.inbox ∨ s.inbox = .coreTurn :: inbox) ∧
      completionStep { s with inbox := inbox } = .next t) ∨
    (∃ a, s.busy = false ∧ s.stalled = some a ∧ (s.inbox = [] ∨ ∃ b rest, s.inbox = .access b :: rest) ∧
      t = performStalled a s) ∨
    (∃ inbox, s.busy = false ∧ t = { s with inbox := inbox }) ∨
    (∃ rest, s.inbox = .reset :: rest ∧ t = resetCore { s with inbox := rest }) ∨
    (∃ a rest, s.inbox = .access a :: rest ∧ s.stalled = none ∧ stallsNow s a = true ∧
      t = { s with stalled := some a, inbox := rest }) ∨
    (∃ a rest, s.inbox = .access a :: rest ∧ s.stalled = none ∧ stallsNow s a = false ∧
      t = performAccess a { s with inbox := rest }) := by
  have owed : (s.inbox = [] ∨ ∃ b rest, s.inbox = .access b :: rest) → owedStep s = .next t →
      (∃ inbox, s.busy = true ∧ (inbox = s.inbox ∨ s.inbox = .coreTurn :: inbox) ∧
        completionStep { s with inbox := inbox } = .next t) ∨
      (∃ a, s.busy = false ∧ s.stalled = some a ∧ (s.inbox = [] ∨ ∃ b rest, s.inbox = .access b :: rest) ∧
        t = performStalled a s) ∨
      (∃ inbox, s.busy = false ∧ t = { s with inbox := inbox }) := by
    intro hin ho
    unfold owedStep at ho
    split at ho
    · exact .inl ⟨s.inbox, ‹_›, .inl rfl, ho⟩
    · split at ho
      · exact .inr (.inl ⟨_, Bool.eq_false_iff.mpr ‹_›, ‹_›, hin, (Host.Outcome.next.inj ho).symm⟩)
      · exact .inr (.inr ⟨s.inbox, Bool.eq_false_iff.mpr ‹_›, (Host.Outcome.next.inj ho).symm⟩)
  unfold step at h
  split at h
  · rename_i hi
    rcases owed (.inl hi) h with h | h | h
    · exact .inl h
    · exact .inr (.inl h)
    · exact .inr (.inr (.inl h))
  · rename_i rest hi
    unfold coreTurn at h
    split at h
    · exact .inl ⟨rest, ‹_›, .inr hi, h⟩
    · exact .inr (.inr (.inl ⟨rest, Bool.eq_false_iff.mpr ‹_›, (Host.Outcome.next.inj h).symm⟩))
  · rename_i rest hi
    exact .inr (.inr (.inr (.inl ⟨rest, hi, (Host.Outcome.next.inj h).symm⟩)))
  · rename_i a rest hi
    unfold hostTurn at h
    split at h
    · rcases owed (.inr ⟨a, rest, hi⟩) h with h | h | h
      · exact .inl h
      · exact .inr (.inl h)
      · exact .inr (.inr (.inl h))
    · split at h
      · exact .inr (.inr (.inr (.inr (.inl ⟨a, rest, hi, ‹_›, ‹_›, (Host.Outcome.next.inj h).symm⟩))))
      · exact .inr (.inr (.inr (.inr (.inr
          ⟨a, rest, hi, ‹_›, Bool.eq_false_iff.mpr ‹_›, (Host.Outcome.next.inj h).symm⟩))))

end Sys2Proof.Machine
end

