-- ==== Sys2Proof/Machine/HostProgram.lean ====
section
/-! DEFINITION. The host agent running a program in the notation of 30_encoding.md R107, with the pseudo-instructions of
R108. The host's program and its position in it belong to the host and are no state of the core (10_state.md R20, R21),
so they stand beside the machine state, and every step the core sees is a step of `step`. -/

namespace Sys2Proof.Machine

/-- The offset of a register (10_state.md R22). -/
def Reg.offset (r : Reg) : Nat :=
  match r with
  | .id => 0x00
  | .cmd => 0x04
  | .status => 0x08
  | .irqEn => 0x0C
  | .crcState => 0x10
  | .crcResult => 0x14
  | .srcOff => 0x18
  | .srcLen => 0x1C
  | .dstOff => 0x20
  | .type => 0x24
  | .typeB => 0x28
  | .typeFlags => 0x2C
  | .chLen => 0x30
  | .chType => 0x34
  | .chPayloadOff => 0x38
  | .chCrc => 0x3C
  | .chStatus => 0x40
  | .crcStored => 0x44
  | .crcComputed => 0x48
  | .outLen => 0x4C

/-- A host statement (R107). A name bound by RD or RB is a number, and a label is the index of the statement it names. -/
inductive HostStmt where
  /-- One access; a read may bind its value to a name. -/
  | access (a : HostAccess) (bind : Option Nat)
  /-- `IF name.field = v GOTO label`, the field being `width` bits from bit `lo`. -/
  | branch (name lo width : Nat) (v : Word) (label : Nat)
  deriving DecidableEq, Repr

/-- `WR reg, imm32`. -/
def wr (r : Reg) (imm : Word) : HostStmt := .access ⟨.registers, r.offset, 32, .write imm⟩ none

/-- `RD reg -> name`. -/
def rd (r : Reg) (name : Nat) : HostStmt := .access ⟨.registers, r.offset, 32, .read⟩ (some name)

/-- `CMD mnemonic [, imm8]`: a write of the command word to CMD. -/
def cmdStmt (i : Instr) : HostStmt := wr .cmd (encode i)

/-- `WB off, byte`. -/
def wb (off : Nat) (b : Byte) : HostStmt := .access ⟨.buffer, off, 8, .write (b.setWidth 32)⟩ none

/-- `WW off, imm32`. -/
def ww (off : Nat) (imm : Word) : HostStmt := .access ⟨.buffer, off, 32, .write imm⟩ none

/-- `RB off -> name`. -/
def rb (off name : Nat) : HostStmt := .access ⟨.buffer, off, 8, .read⟩ (some name)

/-- `WAIT` (R108) at statement index `k`, polling into a name: read STATUS, and go back while BUSY = 1. -/
def waitStmts (k name : Nat) : List HostStmt := [rd .status name, .branch name 0 1 1#32 k]

/-- `RUN mnemonic` (R108) at statement index `k`. -/
def runStmts (k name : Nat) (i : Instr) : List HostStmt := cmdStmt i :: waitStmts (k + 1) name

/-- `SETSRC off, len` (R108). -/
def setSrc (off len : Word) : List HostStmt := [wr .srcOff off, wr .srcLen len]

/-- `SETTYPE "c0c1c2c3"` (R108). -/
def setType (c0 c1 c2 c3 : Byte) : HostStmt := wr .type (fromBe32 c0 c1 c2 c3)

/-- `WBS off, b0 b1 ...` (R108). -/
def wbs : Nat → List Byte → List HostStmt
  | _, [] => []
  | off, b :: bs => wb off b :: wbs (off + 1) bs

/-- `CRCBYTES b0 b1 ...` (R108) at statement index `k`: one RUN for each byte. -/
def crcBytesStmts (name : Nat) : Nat → List Byte → List HostStmt
  | _, [] => []
  | k, b :: bs => runStmts k name (.crcByte b) ++ crcBytesStmts name (k + 3) bs

/-- `CLRST` (R108): clear DONE and OVR. -/
def clrSt : HostStmt := wr .status 0x0000000A#32

/-- The host agent and the machine it drives. -/
structure System where
  core : State
  prog : List HostStmt
  /-- The index of the host's next statement. -/
  pos : Nat
  /-- The values bound to names, newest first. -/
  names : List (Nat × Word)
  deriving DecidableEq, Repr

/-- The agent whose turn it is. -/
inductive Turn where
  | host
  | core
  deriving DecidableEq, Repr

/-- The value bound to a name; a name nothing has bound reads as 0 (DESIGN CHOICE, notes/assumptions/7.md). -/
def System.lookup (y : System) (name : Nat) : Word :=
  ((y.names.find? (fun p => p.1 == name)).map Prod.snd).getD 0#32

/-- The statement is done: bind the data of the newest reply to its name, and go to the next statement. What a host
program does after `busError` is left open (20_memory.md R73, U3); here it too goes on to the next statement, and the name
of a read that got no data keeps its earlier value (DESIGN CHOICE, notes/assumptions/17.md). -/
def System.advance (y : System) (bind : Option Nat) (c : State) : System :=
  match bind, c.replies with
  | some n, .data v :: _ => { y with core := c, pos := y.pos + 1, names := (n, v) :: y.names }
  | _, _ => { y with core := c, pos := y.pos + 1 }

/-- A step of the machine under the host's program: `k` says what a next state of the core means to the host. -/
def overCore (k : State → System) (o : Host.Outcome State Fault Refusal) : Host.Outcome System Fault Refusal :=
  match o with
  | .next c => .next (k c)
  | .fault f => .fault f
  | .refused r => .refused r

/-- The statement the host goes to from the branch at index `pos`. -/
def System.branchTarget (y : System) (name lo width : Nat) (v : Word) (label pos : Nat) : Nat :=
  if (y.lookup name >>> lo).toNat % 2 ^ width = v.toNat then label else pos + 1

/-- The host's turn. A stalled access keeps the host at its statement and has no step until BUSY = 0 (R136). -/
def System.hostTurn (y : System) : Host.Outcome System Fault Refusal :=
  match y.prog[y.pos]? with
  | none => .next y
  | some (.branch name lo width v label) =>
    .next { y with pos := y.branchTarget name lo width v label y.pos }
  | some (.access a bind) =>
    match y.core.stalled with
    | some _ =>
      if y.core.busy then .next y
      else overCore (y.advance bind) (step { y.core with inbox := [] })
    | none =>
      overCore (fun c => if c.stalled.isSome then { y with core := c } else y.advance bind c)
        (step { y.core with inbox := [.access a] })

/-- A turn of one agent. -/
def System.turn (t : Turn) (y : System) : Host.Outcome System Fault Refusal :=
  match t with
  | .host => y.hostTurn
  | .core => overCore (fun c => { y with core := c }) (step { y.core with inbox := [.coreTurn] })

/-- A schedule of turns: every schedule is admitted (R138). -/
def System.run : List Turn → System → Host.Outcome System Fault Refusal
  | [], y => .next y
  | t :: ts, y =>
    match y.turn t with
    | .next y' => System.run ts y'
    | .fault f => .fault f
    | .refused r => .refused r

/-- A host program at its start, on the machine after reset. -/
def System.start (prog : List HostStmt) : System := { core := State.reset, prog := prog, pos := 0, names := [] }

/-- The host comes to an access from statement `pos` within `n` statements. Branches bind no name, so the way to the next
access is fixed by the names bound now. -/
def System.reachesAccess (y : System) : (n pos : Nat) → Bool
  | 0, _ => false
  | n + 1, pos =>
    match y.prog[pos]? with
    | none => false
    | some (.access _ _) => true
    | some (.branch name lo width v label) => y.reachesAccess n (y.branchTarget name lo width v label pos)

/-- A host program's run is over (R142): the host has issued its last access, the core is quiescent and no access is
stalled. The access was the last if the host comes to no other; branches alone that do not reach one within as many
statements as the program has repeat, and never do (DEDUCED, notes/assumptions/18.md). -/
def System.isOver (y : System) : Bool :=
  !y.reachesAccess y.prog.length y.pos && !y.core.busy && y.core.stalled.isNone

end Sys2Proof.Machine
end

