-- ==== Sys2Proof/Tests/Slice0.lean ====
section
/-! SUPPORT. Tests with results from outside the model (the words of 30_encoding.md and the vectors of
95_test_vectors.md, named by their ids), the smoke tests of WellFormed, and for each statement with hypotheses a
concrete case that meets all of them together. -/

namespace Sys2Proof.Tests

open Sys2Proof.Machine

-- One declaration after another: each elaboration thread reserves a large stack.
set_option Elab.async false

/-! ### Small states -/

/-- After reset with a BUF of 64 bytes, `bs` written from offset 0, and the source range the first `len` bytes. -/
def small (bs : List Byte) (len : Nat) : State :=
  { bufWrite 0 bs (State.afterReset ⟨6⟩ 0) with srcLen := BitVec.ofNat 32 len }

/-- "123456789". -/
def digits : List Byte := [0x31, 0x32, 0x33, 0x34, 0x35, 0x36, 0x37, 0x38, 0x39]

/-- FRAME_E of 95_test_vectors.md section 1: type "IEND", no payload. -/
def frameE : List Byte := [0x00, 0x00, 0x00, 0x00, 0x49, 0x45, 0x4E, 0x44, 0xAE, 0x42, 0x60, 0x82]

/-- The state after V-NW1, in a BUF of 64 bytes: the IEND chunk. -/
def iend : State := setDescriptor 0#32 0x49454E44#32 0#32 0xAE426082#32 (small [] 0)

/-- A command word accepted from a state, its completion still owed. -/
def pending (w : Word) (s : State) : State := acceptCommand w s

/-- What one command leaves, seen through `f`; none if it does not answer a next state. -/
def leaves {α : Type} (f : State → α) (i : Instr) (s : State) : Option α := (stateAfter (exec i s)).map f

/-- The word STATUS reads as after one host access. -/
def statusAfter (a : HostAccess) (s : State) : Word := statusWord (performAccess a s)

/-! ### WellFormed: an ill-formed term for each check, which the check refuses -/

/-- V-CY4: opcode 0x04 is reserved. -/
theorem test_wf_reserved_opcode : (cmdFields 0x00000004#32).opcodeDefined = false ∧ legalWord 0x00000004#32 = false := by
  decide

/-- V-CY6: RSVD is not 0. -/
theorem test_wf_reserved_field :
    (cmdFields 0x00010001#32).reservedClear = false ∧ legalWord 0x00010001#32 = false := by decide

/-- V-CY7: IMM8 on CRC_INIT. -/
theorem test_wf_stray_immediate :
    (cmdFields 0x00000101#32).immediateAllowed = false ∧ legalWord 0x00000101#32 = false := by decide

/-- The legal values of BUF_ADDR_BITS (00_scope.md R7): 4 and 31 are, 3 and 32 are not. -/
theorem test_wf_config : (Config.wellFormed ⟨4⟩ && Config.wellFormed ⟨31⟩) = true ∧ Config.wellFormed ⟨3⟩ = false ∧
    Config.wellFormed ⟨32⟩ = false := by decide

/-- Overlapping windows are no placement (20_memory.md R70). -/
theorem test_wf_placement : Placement.wellFormed ⟨0x1000, 0x1080⟩ Config.reference = false ∧
    Placement.wellFormed ⟨0x1000, 0x1100⟩ Config.reference = true := by decide

/-! ### Decoding: the words of 30_encoding.md R103 and R104, written out -/

theorem test_decode_nop : decode 0b00000000000000000000000000000000#32 = .ok .nop := by rfl

theorem test_decode_crc_init : decode 0b00000000000000000000000000000001#32 = .ok .crcInit := by rfl

theorem test_decode_crc_byte : decode 0b00000000000000001010110100000010#32 = .ok (.crcByte 0xAD#8) := by rfl

theorem test_decode_crc_buf : decode 0b00000000000000000000000000000011#32 = .ok .crcBuf := by rfl

theorem test_decode_type_load_str : decode 0b00000000000000000000000000001000#32 = .ok .typeLoadStr := by rfl

theorem test_decode_chunk_new : decode 0b00000000000000000000000000010000#32 = .ok .chunkNew := by rfl

theorem test_decode_chunk_parse : decode 0b00000000000000000000000000010001#32 = .ok .chunkParse := by rfl

theorem test_decode_chunk_emit : decode 0b00000000000000000000000000010010#32 = .ok .chunkEmit := by rfl

/-- V-CY4, V-CY5, V-CY6, V-CY7, V-CY8, V-CY9: illegal words, each rejected by the condition it breaks. -/
theorem test_decode_illegal :
    decode 0x00000004#32 = .error (.reservedOpcode 0x04) ∧ decode 0x00000013#32 = .error (.reservedOpcode 0x13) ∧
    decode 0x00010001#32 = .error (.reservedField 0x0001) ∧ decode 0x00000101#32 = .error (.strayImmediate 0x01) ∧
    decode 0x00000100#32 = .error (.strayImmediate 0x01) ∧ decode 0x80000000#32 = .error (.reservedField 0x8000) :=
  ⟨rfl, rfl, rfl, rfl, rfl, rfl⟩

/-- R106: a decoder consumes 4 bytes, the bytes of a bus write in little-endian lanes. -/
theorem test_decode_bytes : decodeBytes [0x02, 0x31, 0x00, 0x00, 0xFF] = some (.ok (.crcByte 0x31#8), [0xFF]) ∧
    decodeBytes [0x02, 0x31, 0x00] = none := ⟨rfl, rfl⟩

/-- The host's two views: a table word is decoded, and placed so that the next step runs it (V-CY2). -/
theorem test_fetch_word : decodeTableWord 32 0x3102 = some (.crcByte 0x31#8) ∧
    (stateAfter (step (State.reset.withFetchWord 32 0x3102))).map (fun t => (t.crcState, statusWord t)) =
      some (0x7C231048#32, 0x00000002#32) := by decide +kernel

/-! ### Commands -/

/-- V-CY3. -/
theorem test_nop_clears_the_error :
    leaves statusWord .nop (failedWith .crcMismatch State.reset) = some 0x00000002#32 := by decide +kernel

/-- V-CR1. -/
theorem test_crc_init : leaves (fun t => (t.crcState, crcResult t, statusWord t)) .crcInit
    { State.reset with crcState := 0x12345678#32 } = some (0xFFFFFFFF#32, 0#32, 0x00000002#32) := by decide +kernel

/-- V-CR2. -/
theorem test_crc_byte : leaves State.crcState (.crcByte 0x31#8) State.reset = some 0x7C231048#32 := by decide +kernel

/-- V-CR3: 0x00 is data. -/
theorem test_crc_byte_zero : leaves State.crcState (.crcByte 0x00#8) State.reset = some 0x2DFD1072#32 := by
  decide +kernel

/-- V-CR5. -/
theorem test_crc_buf : leaves (fun t => (t.crcState, crcResult t)) .crcBuf (small digits 9) =
    some (0x340BC6D9#32, 0xCBF43926#32) := by decide +kernel

/-- V-CR7: the sum is exact. -/
theorem test_crc_buf_range : leaves (fun t => (statusWord t, t.crcState)) .crcBuf
    { State.reset with srcOff := 0xFFFFFFFF#32, srcLen := 1#32 } = some (0x00001106#32, 0xFFFFFFFF#32) := by
  decide +kernel

/-- V-TL1. -/
theorem test_type_load_str : leaves (fun t => (statusWord t, t.typeReg)) .typeLoadStr
    (small [0x52, 0x75, 0x53, 0x74] 4) = some (0x00000002#32, 0x52755374#32) := by decide +kernel

/-- V-TL10: the byte just above the upper-case letters. -/
theorem test_type_load_str_letters : leaves (fun t => (statusWord t, t.typeReg)) .typeLoadStr
    (small [0x5B, 0x75, 0x53, 0x74] 4) = some (0x00000406#32, 0#32) := by decide +kernel

/-- V-NW3: TYPE "RuSt", payload "A". -/
theorem test_chunk_new : leaves (fun t => (t.chLen, t.chType, t.chCrc, t.chValid)) .chunkNew
    { small [0x41] 1 with typeReg := 0x52755374#32 } = some (1#32, 0x52755374#32, 0xFC626605#32, true) := by
  decide +kernel

/-- V-NW5. -/
theorem test_chunk_new_range : leaves (fun t => (statusWord t, t.chValid)) .chunkNew
    { State.reset with srcOff := 0xFFFF#32, srcLen := 2#32 } = some (0x00001106#32, false) := by decide +kernel

/-- V-PA13. -/
theorem test_chunk_parse : leaves (fun t => (statusWord t, t.chLen, t.chType, t.chPayloadOff, t.chCrc, t.outLen))
    .chunkParse (small frameE 12) =
      some (0x00000002#32, 0#32, 0x49454E44#32, 8#32, 0xAE426082#32, 0x0C#32) := by decide +kernel

/-- V-PA15. -/
theorem test_chunk_parse_mismatch : leaves (fun t => (statusWord t, t.crcStored, t.crcComputed, t.chValid))
    .chunkParse (small [0, 0, 0, 0, 0x41, 0x42, 0x43, 0x44, 0, 0, 0, 0] 12) =
      some (0x00000306#32, 0#32, 0xDB1720A5#32, false) := by decide +kernel

/-- V-EM2. -/
theorem test_chunk_emit : leaves (fun t => (bufRead t 0x10 12, t.outLen)) .chunkEmit { iend with dstOff := 0x10#32 } =
    some (frameE, 0x0C#32) := by decide +kernel

/-- V-EM13 in a BUF of 64 bytes: RANGE is checked before OVERLAP; and V-EM7: D = P is not the in-place case. -/
theorem test_chunk_emit_refusals :
    leaves statusWord .chunkEmit { setDescriptor 16#32 0#32 0x20#32 0#32 (small [] 0) with dstOff := 0x28#32 } =
      some 0x00001106#32 ∧
    leaves statusWord .chunkEmit { setDescriptor 16#32 0#32 0x20#32 0#32 (small [] 0) with dstOff := 0x20#32 } =
      some 0x00001206#32 := by decide +kernel

/-- V-PA6: N + 8 does not wrap. -/
theorem test_exact_length : leaves statusWord .chunkParse
    (small [0xFF, 0xFF, 0xFF, 0xFF, 0, 0, 0, 0, 0, 0, 0, 0] 12) = some 0x00000206#32 := by decide +kernel

/-! ### Registers, flags and host accesses -/

/-- V-EQ1, V-EQ2, and V-TF4 with V-EQ1's other fields. -/
theorem test_type_flags : typeFlags State.reset = 0x00030707#32 ∧
    typeFlags { State.reset with typeReg := 0x52755374#32, typeB := 0x52755374#32 } = 0x0001073D#32 ∧
    typeFlags { State.reset with typeReg := 0x49484452#32 } = 0x00020737#32 := by decide

/-- V-CY10 and V-CY11. -/
theorem test_overrun_and_status_write :
    statusAfter ⟨.registers, 0x04, 32, .write 0#32⟩ (pending 1#32 State.reset) = 0x00000009#32 ∧
    statusAfter ⟨.registers, 0x08, 32, .write 2#32⟩ { State.reset with done := true, ovr := true } = 0x00000008#32 := by
  decide +kernel

/-- V-MB1: a big-endian length field read through the bus. -/
theorem test_bus_read : (performAccess ⟨.buffer, 0x10, 32, .read⟩ (bufWrite 0x10 [0, 0, 0, 0x2A] State.reset)).replies =
    [.data 0x2A000000#32] := by decide +kernel

/-- V-MB3, V-MB5, V-MB6, V-MB8, each a bus error. -/
theorem test_bus_errors : ∀ a ∈ ([⟨.buffer, 0x301, 16, .read⟩, ⟨.registers, 0x08, 8, .read⟩,
    ⟨.registers, 0x0A, 32, .read⟩, ⟨.buffer, 0x10000, 8, .read⟩] : List HostAccess),
    (performAccess a State.reset).replies = [.busError] := by decide +kernel

/-- V-IR3 and V-IR5. -/
theorem test_irq :
    irq (performAccess ⟨.registers, 0x08, 32, .write 2#32⟩ { State.reset with ie := true, done := true }) = false ∧
    irq (performAccess ⟨.registers, 0x0C, 32, .write 1#32⟩ { State.reset with done := true }) = true := by
  decide +kernel

/-- 20_memory.md R70: an address in the register window reaches its register, and an address in neither window reaches
nothing. -/
theorem test_placement : accessAt ⟨0x1000, 0x20000⟩ Config.reference 0x1008 32 .read =
      some ⟨.registers, 0x08, 32, .read⟩ ∧
    accessAt ⟨0x1000, 0x20000⟩ Config.reference 0x1100 32 .read = none := ⟨rfl, rfl⟩

/-- Writes out of order give the canonical form, and a second write replaces the first. -/
theorem test_memory_canonical : Memory.set (Memory.set (Memory.set [] 5 1) 2 2) 5 3 = [(2, 2), (5, 3)] := by decide

/-- R142 in `RUN NOP`: a poll that read BUSY = 1 is not the last access, since the branch goes back to it; the poll that
read BUSY = 0 is, and its branch need not be taken. -/
theorem test_run_over_at_last_access :
    (∃ y, System.run [.host, .host, .core] (System.start (runStmts 0 7 .nop)) = .next y ∧ y.isOver = false) ∧
    ∃ y, System.run [.host, .host, .host, .core, .host] (System.start (runStmts 0 7 .nop)) = .next y ∧ y.pos = 2 ∧
      y.isOver = true := by
  refine ⟨⟨_, rfl, ?_⟩, ⟨_, rfl, ?_, ?_⟩⟩ <;> decide +kernel

/-- A host program is `RUN NOP` (30_encoding.md R108): the write, one poll while busy, the completion, one more poll. -/
theorem test_run_nop_waits : ∃ y, System.run [.host, .host, .host, .core, .host, .host]
    (System.start (runStmts 0 7 .nop)) = .next y ∧ y.isOver = true ∧ y.lookup 7 = 0x00000002#32 := by
  refine ⟨_, rfl, ?_⟩
  decide +kernel

/-! ### Witnesses: for each statement with hypotheses, cases that meet them, clause by clause -/

/-- An inbox before a state. -/
def owing (es : List Event) (s : State) : State := { s with inbox := es }

/-- CHUNK_PARSE of FRAME_E, done. -/
def parsedE : State := succeeded (takeFrame (small frameE 12))

theorem parse_frameE : exec .chunkParse (small frameE 12) = .next parsedE := by
  show execChunkParse _ = _
  unfold execChunkParse
  rw [if_pos (by decide), if_neg (by decide), if_neg (by decide), if_neg (by decide +kernel), complete_ok_eq, parsedE]

/-- An outcome seen through `f` to be `x` is a next state. -/
theorem next_of_map {α : Type} {f : State → α} {o : Host.Outcome State Fault Refusal} {x : α}
    (h : (stateAfter o).map f = some x) : ∃ t, o = .next t ∧ f t = x := by
  cases o with
  | next t => exact ⟨t, rfl, Option.some.inj h⟩
  | fault _ => nomatch h
  | refused _ => nomatch h

/-- The smallest BUF, 16 bytes. -/
def tiny : State := State.afterReset ⟨4⟩ 0

theorem inv_pending_nop : (owing [.access ⟨.registers, 0x10, 32, .read⟩] (pending 0#32 tiny)).Inv :=
  ⟨by decide, by decide, by decide, by decide, by decide, by decide, by decide, by simp [owing, pending, tiny, State.afterReset]⟩

theorem witness_DecodeAndEncodeAgree : (Instr.crcByte 0xFF#8).wellFormed = true ∧
    (∃ i, decode 0x0000FF02#32 = .ok i) := ⟨rfl, _, rfl⟩

/-- Illegal words at the edge of each condition of R104, accepted and then completed. -/
theorem witness_LegalityDecidesTheOutcome : ∀ n ∈ [0x00000004, 0x00010000, 0x00000100, 0x000000FF],
    ¬((BitVec.ofNat 32 n).toNat % 256 ∈ [0x00, 0x01, 0x02, 0x03, 0x08, 0x10, 0x11, 0x12] ∧
        (BitVec.ofNat 32 n).toNat / 65536 = 0 ∧
        ((BitVec.ofNat 32 n).toNat / 256 % 256 = 0 ∨ (BitVec.ofNat 32 n).toNat % 256 = 0x02)) ∧
    (tiny.busy = false ∧ tiny.stalled = none) ∧ (pending (BitVec.ofNat 32 n) tiny).busy = true ∧
    (pending (BitVec.ofNat 32 n) tiny).cmd = BitVec.ofNat 32 n := by decide +kernel

theorem witness_MatchMaskTableAgreesWithDecoder : decode 0x0000FF02#32 = .ok (.crcByte 0xFF) ∧
    (∃ r ∈ opcodeRows, 0x0000FF02#32 &&& r.mask = r.matchBits) := ⟨rfl, by decide⟩

theorem witness_StepRunsTheDecodedCommand : (pending 0x12#32 tiny).busy = true ∧
    decode (pending 0x12#32 tiny).cmd = .ok .chunkEmit ∧ (pending 0x12#32 tiny).inbox = [] ∧
    (owing [.coreTurn] (pending 0x12#32 tiny)).inbox = .coreTurn :: [] ∧
    (∃ s : State, s.busy = true ∧ decode s.cmd = .ok .chunkEmit ∧ s.inbox = [.access ⟨.registers, 0, 32, .read⟩] ∧
      s.stalled = some ⟨.buffer, 0, 8, .read⟩) ∧
    (∃ s : State, s.busy = true ∧ (∀ i, decode s.cmd ≠ .ok i) ∧ s.inbox = []) ∧
    (∃ s : State, s.busy = true ∧ (∀ i, decode s.cmd ≠ .ok i) ∧ s.inbox = [.coreTurn]) ∧
    ∃ s : State, s.busy = true ∧ (∀ i, decode s.cmd ≠ .ok i) ∧ s.inbox = [.access ⟨.registers, 0, 32, .read⟩] ∧
      s.stalled = some ⟨.buffer, 0, 8, .read⟩ :=
  ⟨rfl, rfl, rfl, rfl,
    ⟨{ pending 0x12#32 tiny with inbox := [.access ⟨.registers, 0, 32, .read⟩], stalled := some ⟨.buffer, 0, 8, .read⟩ },
      rfl, rfl, rfl, rfl⟩,
    ⟨pending 0x13#32 tiny, rfl, fun _ => nofun, rfl⟩,
    ⟨owing [.coreTurn] (pending 0x13#32 tiny), rfl, fun _ => nofun, rfl⟩,
    { pending 0x13#32 tiny with inbox := [.access ⟨.registers, 0, 32, .read⟩], stalled := some ⟨.buffer, 0, 8, .read⟩ },
      rfl, fun _ => nofun, rfl, rfl⟩

theorem witness_CmdWriteWhenIdleIsAccepted :
    (owing [.access ⟨.registers, 0x04, 32, .write 0xFFFFFFFF#32⟩] tiny).busy = false ∧
    (owing [.access ⟨.registers, 0x04, 32, .write 0xFFFFFFFF#32⟩] tiny).stalled = none := by decide

theorem witness_CmdWriteWhileBusyOnlySetsOverrun :
    (owing [.access ⟨.registers, 0x04, 32, .write 0#32⟩] (pending 1#32 tiny)).busy = true ∧
    (owing [.access ⟨.registers, 0x04, 32, .write 0#32⟩] (pending 1#32 tiny)).stalled = none := by decide

/-- Accesses that stall (the last byte of BUF; TYPE_B), accesses that do not (CMD; a byte after BUF; a misaligned
write), and a stalled access with BUSY = 0 and with BUSY = 1. -/
theorem witness_AccessesStallExactlyWhileBusy :
    (∀ a ∈ ([⟨.buffer, 15, 8, .read⟩, ⟨.buffer, 12, 32, .write 0#32⟩, ⟨.registers, 0x28, 32, .write 0#32⟩] : List HostAccess),
      stallsNow (pending 1#32 tiny) a = true ∧ stallsNow tiny a = false) ∧
    (∀ a ∈ ([⟨.registers, 0x04, 32, .write 0#32⟩, ⟨.buffer, 16, 8, .read⟩, ⟨.buffer, 13, 32, .write 0#32⟩] : List HostAccess),
      stallsNow (pending 1#32 tiny) a = false) ∧
    (∃ t, step { pending 1#32 tiny with stalled := some ⟨.buffer, 15, 8, .read⟩ } = .next t) ∧
    (∃ t, step { tiny with stalled := some ⟨.registers, 0x28, 32, .write 5#32⟩ } = .next t ∧ t.typeB = 5#32) :=
  ⟨by decide, by decide, ⟨_, rfl⟩, ⟨_, rfl, rfl⟩⟩

theorem witness_CompletionTakesTheOutcomeOfCmd :
    (∃ t, step (owing [.coreTurn] (pending 0x12#32 tiny)) = .next t ∧ t.err = true) ∧
    (∃ t, step (owing [.coreTurn] (pending 0#32 tiny)) = .next t ∧ t.err = false) ∧ tiny.busy = false ∧
    decode (pending 0#32 tiny).cmd = .ok .nop ∧ ∀ i, decode (pending 0x13#32 tiny).cmd ≠ .ok i :=
  ⟨⟨_, rfl, rfl⟩, ⟨_, rfl, rfl⟩, rfl, rfl, fun _ => nofun⟩

theorem witness_NothingACommandUsesChangesBeforeCompletion :
    ∃ t, step (owing [.access ⟨.registers, 0x0C, 32, .write 1#32⟩] (pending 1#32 tiny)) = .next t ∧ t.busy = true ∧
      t.ie = true := ⟨_, rfl, rfl, rfl⟩

theorem witness_BusyCoreCompletesWithinTheInbox :
    ∃ s : State, s.Inv ∧ s.busy = true ∧ s.inbox ≠ [] := ⟨_, inv_pending_nop, rfl, by decide⟩

theorem witness_StepKeepsTheInvariant : ∃ s t : State, s.Inv ∧ step s = .next t ∧ t ≠ s :=
  ⟨_, _, inv_pending_nop, rfl, by decide⟩

theorem witness_ResetSatisfiesTheInvariant : Config.wellFormed ⟨4⟩ = true ∧ Config.wellFormed ⟨31⟩ = true := by decide

theorem witness_GoodStatesNeverStop : ∃ s : State, s.Inv := ⟨_, inv_pending_nop⟩

theorem witness_StepKeepsTheConfiguration : ∃ t, step (owing [.reset] (pending 1#32 tiny)) = .next t := ⟨_, rfl⟩

/-- With a leftover turn of the idle core, with a leftover reset, and with nothing left. -/
theorem witness_RunThatIsOverStaysOver : (owing [.coreTurn] tiny).runOver = true ∧ (owing [.reset] tiny).runOver = true ∧
    tiny.runOver = true ∧ (owing [.access ⟨.registers, 0x08, 32, .read⟩] tiny).runOver = false ∧
    (pending 0#32 tiny).runOver = false := by decide

theorem witness_ResetAbandonsCommandAndStalledAccess :
    ∃ s : State, s.inbox = [.reset, .coreTurn] ∧ s.busy = true ∧ s.stalled = some ⟨.buffer, 0, 8, .read⟩ :=
  ⟨{ pending 1#32 tiny with inbox := [.reset, .coreTurn], stalled := some ⟨.buffer, 0, 8, .read⟩ }, rfl, rfl, rfl⟩

/-- The last admitted access of each kind, and the first that is not; a busy core, and the writes next to the offsets that
stall. -/
theorem witness_BusErrorExactlyForOtherAccesses : tiny.bufSize = 16 ∧
    (∀ a ∈ ([⟨.registers, 0xFC, 32, .read⟩, ⟨.buffer, 15, 8, .read⟩, ⟨.buffer, 14, 16, .read⟩,
      ⟨.buffer, 12, 32, .read⟩] : List HostAccess), admissible tiny.cfg a = true) ∧
    (∀ a ∈ ([⟨.registers, 0x100, 32, .read⟩, ⟨.buffer, 16, 8, .read⟩, ⟨.buffer, 16, 16, .read⟩,
      ⟨.buffer, 15, 16, .read⟩, ⟨.buffer, 13, 32, .read⟩, ⟨.buffer, 0, 64, .read⟩] : List HostAccess),
      admissible tiny.cfg a = false) ∧ (pending 1#32 tiny).busy = true ∧
    (0x0C ∉ [0x10, 0x18, 0x1C, 0x20, 0x24, 0x28] ∧ 0x2C ∉ [0x10, 0x18, 0x1C, 0x20, 0x24, 0x28]) := by decide

/-- The first and the last reserved offset. -/
theorem witness_HostReadReturnsTheRegister : ∀ o ∈ [0x50, 0xFC], 0x50 ≤ o ∧ o ≤ 0xFC ∧ o % 4 = 0 := by decide

/-- Each clause's offset, the first and the last reserved one among them, with BUSY = 0 and BUSY = 1. -/
theorem witness_HostWriteStoresItsRegister : (∀ o ∈ [0x04, 0x08, 0x0C, 0x10, 0x18, 0x1C, 0x20, 0x24, 0x28, 0x00, 0x50, 0xFC],
    o % 4 = 0 ∧ o + 4 ≤ 256) ∧ tiny.busy = false ∧ (pending 1#32 tiny).busy = true := by decide

theorem witness_ReadOnlyRegisterWritesAreIgnored :
    (owing [.access ⟨.registers, 0x4C, 32, .write 1#32⟩] (pending 1#32 tiny)).stalled = none ∧
    (owing [.access ⟨.registers, 0x00, 32, .write 1#32⟩] tiny).stalled = none := by decide

theorem witness_StatusWriteClearsOnlyDoneAndOverrun :
    ∃ s : State, s.stalled = none ∧ s.inbox = [.access ⟨.registers, 0x08, 32, .write 0x0000000A#32⟩] ∧
      s.done = true ∧ s.ovr = true :=
  ⟨{ tiny with done := true, ovr := true, inbox := [.access ⟨.registers, 0x08, 32, .write 0x0000000A#32⟩] },
    rfl, rfl, rfl, rfl⟩

theorem witness_StatusWordLayout : (failedWith .noChunk tiny).errCode = .noChunk := rfl

/-- The last aligned access of each width. -/
theorem witness_BufferAccessesAreLittleEndian :
    ∀ p ∈ [(15, 1), (14, 2), (12, 4)], p.2 ∈ [1, 2, 4] ∧ p.1 % p.2 = 0 ∧ p.1 + p.2 ≤ tiny.bufSize := by decide

/-- V-MB1 at the end of a BUF of 64 bytes. -/
theorem witness_BigEndianFieldsReadByteReversed :
    numberAt (bufWrite 60 [0x00, 0x00, 0x00, 0x2A] (small [] 0)) 60 = (0x0000002A#32).toNat ∧
      60 + 4 ≤ (small [] 0).bufSize := by decide

theorem witness_InterruptFollowsEnableAndDone :
    (∃ t, step (owing [.coreTurn] { pending 0x12#32 tiny with ie := true }) = .next t) ∧
    (0x00000002#32).getLsbD 1 = true ∧ tiny.busy = false ∧ (pending 1#32 tiny).busy = true :=
  ⟨⟨_, rfl⟩, rfl, rfl, rfl⟩

/-- V-CY8, and a word with OPC = 0x00 and only its top bit set (V-CY9). -/
theorem witness_NopOnlyCompletes : ∀ n ∈ [0x00000100, 0x80000000], (BitVec.ofNat 32 n).toNat % 256 = 0x00 ∧
    BitVec.ofNat 32 n ≠ 0x00000000#32 := by decide +kernel

theorem witness_CrcByteFeedsItsImmediate :
    (∃ t, step (owing [.coreTurn] (pending 0x0000FF02#32 tiny)) = .next t) ∧
    (∃ t, step (owing [.coreTurn] (pending 0x00010002#32 tiny)) = .next t) ∧
    (0x0000FF02#32).toNat % 256 = 0x02 ∧ (0x0000FF02#32).toNat / 65536 = 0 ∧
    (0x00010002#32).toNat % 256 = 0x02 ∧ (0x00010002#32).toNat / 65536 ≠ 0 ∧
    (0x0000FF02#32).toNat = (0xFF#8).toNat * 256 + 2 :=
  ⟨⟨_, rfl⟩, ⟨_, rfl⟩, by decide, by decide, by decide, by decide, by decide⟩

/-- A source range that ends at BUF_SIZE, an empty one there (V-CR6), and one byte more (V-CR9). -/
theorem witness_CrcBufFoldsTheSourceRange :
    (∀ s ∈ [{ tiny with srcOff := 15, srcLen := 1 }, { tiny with srcOff := 16, srcLen := 0 }],
      s.srcOff.toNat + s.srcLen.toNat ≤ s.bufSize) ∧
    ∀ s ∈ [{ tiny with srcOff := 15, srcLen := 2 }], s.bufSize < s.srcOff.toNat + s.srcLen.toNat := by decide +kernel

/-- A list with CRC_BUF twice and CRC_BYTE on either side and between. -/
theorem witness_CrcResultIsTheCrcOfTheBytesFed :
    (∀ i ∈ [Instr.crcByte 0x31, .crcBuf, .crcByte 0x00, .crcBuf, .crcByte 0xFF], i = .crcBuf ∨ ∃ b, i = .crcByte b) ∧
    (small digits 9).srcOff.toNat + (small digits 9).srcLen.toNat ≤ (small digits 9).bufSize := by
  refine ⟨by simp, by decide⟩

theorem witness_CrcStateChangesOnlyByItsWriters :
    (∃ t, step (pending 0x00003102#32 tiny) = .next t ∧ t.crcState = 0x7C231048#32) ∧
    (∃ t, step (owing [.access ⟨.registers, 0x10, 32, .write 0#32⟩] tiny) = .next t ∧ t.crcState ≠ tiny.crcState) ∧
    (∃ t, step { tiny with stalled := some ⟨.registers, 0x10, 32, .write 0#32⟩ } = .next t ∧
      t.crcState ≠ tiny.crcState) ∧
    (∃ t, step (owing [.reset] { tiny with crcState := 0#32 }) = .next t ∧ t.crcState ≠ 0#32) :=
  ⟨next_of_map (by decide +kernel), ⟨_, rfl, by decide⟩, ⟨_, rfl, by decide⟩, ⟨_, rfl, by decide⟩⟩

theorem witness_ChunkCommandsIgnoreCrcState :
    (∃ t, exec .typeLoadStr tiny = .next t) ∧ (∃ t, exec .chunkNew tiny = .next t ∧ t.errCode = .ok) ∧
    (∃ t, exec .chunkParse (small frameE 12) = .next t) ∧ ∃ t, exec .chunkEmit iend = .next t ∧ t.errCode = .ok :=
  ⟨⟨_, rfl⟩, ⟨_, rfl, rfl⟩, ⟨_, parse_frameE⟩, next_of_map (by decide +kernel)⟩

theorem witness_TypeFlagsBits : tiny.typeReg = 0#32 ∧ tiny.chType = 0#32 ∧ tiny.typeB = 0#32 := by decide

/-- The four cases of R180: the range by one byte, three characters, a fourth byte that is no letter, and exactly four
letters. -/
theorem witness_TypeLoadStrOutcome : (small [] 65).bufSize < (small [] 65).srcOff.toNat + (small [] 65).srcLen.toNat ∧
    (∀ s ∈ [small [] 3, small [0x52, 0x75, 0x53, 0x74] 4, small [0x52, 0x75, 0x53, 0x7B] 4],
      s.srcOff.toNat + s.srcLen.toNat ≤ s.bufSize) ∧ (small [] 3).srcLen.toNat < 4 ∧
    (∀ k < 4, letterCode (bufByte (small [0x52, 0x75, 0x53, 0x74] 4) (0 + k)).toNat) ∧
    ¬∀ k < 4, letterCode (bufByte (small [0x52, 0x75, 0x53, 0x7B] 4) (0 + k)).toNat := by
  unfold letterCode; decide

theorem witness_ChunkNewOutcome :
    (small [0x41] 1).srcOff.toNat + (small [0x41] 1).srcLen.toNat ≤ (small [0x41] 1).bufSize ∧
    (small [] 65).bufSize < (small [] 65).srcOff.toNat + (small [] 65).srcLen.toNat ∧
    (small [] 64).srcOff.toNat + (small [] 64).srcLen.toNat ≤ (small [] 64).bufSize := by decide

/-- The five cases of R200, each met by a frame: RANGE, 11 bytes, a length one too large, a CRC that differs, and
FRAME_E. -/
theorem witness_ChunkParseOutcome :
    (small frameE 65).bufSize < 0 + (small frameE 65).srcLen.toNat ∧ (small frameE 11).srcLen.toNat < 12 ∧
    (small [0, 0, 0, 1] 12).srcLen.toNat - 4 < numberAt (small [0, 0, 0, 1] 12) 0 + 8 ∧
    numberAt (small frameE 12) 0 + 8 ≤ (small frameE 12).srcLen.toNat - 4 ∧
    crc32 (bufRead (small frameE 12) (0 + 4) (4 + 0)) = BitVec.ofNat 32 (numberAt (small frameE 12) (0 + 8 + 0)) ∧
    crc32 (bufRead (small (0 :: 0 :: 0 :: 0 :: 0x53 :: frameE.drop 5) 12) (0 + 4) (4 + 0)) ≠
      BitVec.ofNat 32 (numberAt (small (0 :: 0 :: 0 :: 0 :: 0x53 :: frameE.drop 5) 12) (0 + 8 + 0)) := by
  decide +kernel

/-- R203's four boundaries: 11 bytes, 12 + N, 11 + N with N = 1, and fewer than 12. -/
theorem witness_ParseLengthBoundaries : (small frameE 11).srcLen.toNat = 11 ∧
    12 + numberAt (small frameE 12) 0 ≤ (small frameE 12).srcLen.toNat ∧
    1 ≤ numberAt (small [0, 0, 0, 1] 12) 0 ∧
    (small [0, 0, 0, 1] 12).srcLen.toNat = 11 + numberAt (small [0, 0, 0, 1] 12) 0 ∧
    (small [] 0).srcLen.toNat < 12 ∧
    (small [0, 0, 0, 1] 12).srcOff.toNat + (small [0, 0, 0, 1] 12).srcLen.toNat ≤ (small [0, 0, 0, 1] 12).bufSize := by
  decide

theorem witness_FailedParseKeepsTheChunk : ∃ t, exec .chunkParse (small frameE 11) = .next t ∧ t.errCode = .tooShort :=
  next_of_map (by decide +kernel)

/-- FRAME_E with the top bit of its last byte flipped, and with a bit of its type flipped. -/
theorem witness_OneFlippedBitMakesParseFail : ∀ p ∈ [(11, 7, 0x82#8), (4, 0, 0x49#8)],
    exec .chunkParse (small frameE 12) = .next parsedE ∧ parsedE.errCode = .ok ∧
    4 ≤ p.1 ∧ p.1 < 12 + parsedE.chLen.toNat ∧ p.2.1 < 8 ∧
    bufByte (bufWrite p.1 [p.2.2 ^^^ (1#8 <<< p.2.1)] (small frameE 12)) (0 + p.1) =
      bufByte (small frameE 12) (0 + p.1) ^^^ (1#8 <<< p.2.1) ∧
    ∀ a, a ≠ 0 + p.1 →
      bufByte (bufWrite p.1 [p.2.2 ^^^ (1#8 <<< p.2.1)] (small frameE 12)) a = bufByte (small frameE 12) a := by
  intro p hp
  refine ⟨parse_frameE, rfl, ?_, ?_, ?_, ?_, fun a ha => bufByte_bufWrite_outside _ _ _ _ (by simp; omega)⟩
  all_goals (revert p; decide +kernel)

/-- A valid chunk with its payload of `n` bytes at `p`, to be emitted at `d`, in a BUF of 64 bytes. -/
def emitting (d p n : Word) : State := { setDescriptor n 0#32 p 0#32 (small [] 0) with dstOff := d }

/-- A frame that ends at BUF_SIZE, and the in-place case P = D + 8. -/
theorem witness_ChunkEmitWritesTheFrame : ∀ s ∈ [emitting 52 0 0, emitting 0 8 1],
    s.chValid = true ∧ s.chPayloadOff.toNat + s.chLen.toNat ≤ s.bufSize ∧
    s.dstOff.toNat + 12 + s.chLen.toNat ≤ s.bufSize ∧
    ¬(0 < s.chLen.toNat ∧ s.chPayloadOff.toNat < s.dstOff.toNat + 12 + s.chLen.toNat ∧
      s.dstOff.toNat < s.chPayloadOff.toNat + s.chLen.toNat ∧ s.chPayloadOff.toNat ≠ s.dstOff.toNat + 8) := by
  decide +kernel

/-- The four clauses at their edges: no chunk; one byte past BUF_SIZE; D < P + n by one byte (V-EM9); and a payload that
leaves BUF by one byte. -/
theorem witness_ChunkEmitRefusals : (small [] 0).chValid = false ∧
    (emitting 53 0 0).bufSize < (emitting 53 0 0).dstOff.toNat + 12 + (emitting 53 0 0).chLen.toNat ∧
    (∀ s ∈ [emitting 20 20 1], s.chValid = true ∧ s.dstOff.toNat + 12 + s.chLen.toNat ≤ s.bufSize ∧
      0 < s.chLen.toNat ∧ s.chPayloadOff.toNat < s.dstOff.toNat + 12 + s.chLen.toNat ∧
      s.dstOff.toNat < s.chPayloadOff.toNat + s.chLen.toNat ∧ s.chPayloadOff.toNat ≠ s.dstOff.toNat + 8) ∧
    (∀ s ∈ [emitting 0 64 1], s.chValid = true ∧ s.dstOff.toNat + 12 + s.chLen.toNat ≤ s.bufSize ∧
      ¬(0 < s.chLen.toNat ∧ s.chPayloadOff.toNat < s.dstOff.toNat + 12 + s.chLen.toNat ∧
        s.dstOff.toNat < s.chPayloadOff.toNat + s.chLen.toNat ∧ s.chPayloadOff.toNat ≠ s.dstOff.toNat + 8) ∧
      s.bufSize < s.chPayloadOff.toNat + s.chLen.toNat) := by decide +kernel

theorem witness_StoredLengthsDoNotWrap : (small frameE 12).cfg.wellFormed = true ∧
    exec .chunkParse (small frameE 12) = .next parsedE ∧ parsedE.errCode = .ok ∧
    ∃ t, exec .chunkEmit iend = .next t ∧ t.errCode = .ok :=
  ⟨by decide, parse_frameE, rfl, next_of_map (by decide +kernel)⟩

theorem witness_ParseThenEmitReproducesTheFrame : (small frameE 12).cfg.wellFormed = true ∧
    exec .chunkParse (small frameE 12) = .next parsedE ∧ parsedE.errCode = .ok ∧ parsedE.chValid = true ∧
    ∃ u, exec .chunkEmit { parsedE with dstOff := 0x14#32 } = .next u ∧ u.errCode = .ok :=
  ⟨by decide, parse_frameE, rfl, rfl, next_of_map (by decide +kernel)⟩

/-- A payload of one byte at offset 0, emitted to the first and to the last place there is for it. -/
theorem witness_NewEmitParseRoundTrip : (small [0x41] 1).cfg.wellFormed = true ∧
    (small [0x41] 1).srcOff.toNat + (small [0x41] 1).srcLen.toNat ≤ (small [0x41] 1).bufSize ∧
    (∀ n ∈ [1, 51], (BitVec.ofNat 32 n).toNat + 12 + (small [0x41] 1).srcLen.toNat ≤ (small [0x41] 1).bufSize ∧
      overlaps (small [0x41] 1).srcOff.toNat (small [0x41] 1).srcLen.toNat (BitVec.ofNat 32 n).toNat = false) := by
  decide +kernel

theorem witness_ChunkCrcHoldsWhilePayloadIsUnwritten : iend.cfg.wellFormed = true ∧ iend.chunkCrcHolds ∧
    (∃ t, step iend = .next t ∧ t.chValid = true) ∧
    ∃ t, step (pending 0x10#32 iend) = .next t ∧ t.chType = 0#32 :=
  ⟨by decide, fun _ => by decide +kernel, ⟨_, rfl, rfl⟩, next_of_map (by decide +kernel)⟩

theorem witness_DescriptorChangesOnlyByNewParseOrReset :
    (∃ t, step (pending 0x10#32 tiny) = .next t ∧ t.chValid = true) ∧ tiny.chValid = false ∧
    (∃ t, step (pending 0x11#32 (small frameE 12)) = .next t ∧ t.chValid = true) ∧
    (∃ t, step (owing [.reset] iend) = .next t ∧ t.chValid ≠ iend.chValid) :=
  ⟨next_of_map (by decide +kernel), rfl, next_of_map (by decide +kernel), _, rfl, by decide⟩

theorem witness_FailingCommandsChangeOnlyStatus :
    (∃ t, exec .chunkEmit tiny = .next t ∧ t.errCode = .noChunk) ∧
    ∃ t, exec .chunkParse (small (0 :: 0 :: 0 :: 0 :: 0x53 :: frameE.drop 5) 12) = .next t ∧
      t.errCode = .crcMismatch := ⟨⟨_, rfl, rfl⟩, next_of_map (by decide +kernel)⟩

/-- Every command answers a next state from one state, so no clause of the statements over all commands is empty. -/
theorem witness_ErrorCodesOfEachCommand :
    ∀ i ∈ [Instr.nop, .crcInit, .crcByte 0xFF, .crcBuf, .typeLoadStr, .chunkNew, .chunkParse, .chunkEmit],
      (stateAfter (exec i tiny)).isSome = true := by decide +kernel

/-- The same, with a CHUNK_EMIT that stores its frame up to the last byte of BUF. -/
theorem witness_EachCommandWritesOnlyItsOutputs :
    (∀ i ∈ [Instr.nop, .crcInit, .crcByte 0xFF, .crcBuf, .typeLoadStr, .chunkNew, .chunkParse, .chunkEmit],
      (stateAfter (exec i tiny)).isSome = true) ∧
    ∃ t, exec .chunkEmit { iend with dstOff := 52#32 } = .next t ∧ t.outLen = 12#32 :=
  ⟨witness_ErrorCodesOfEachCommand, next_of_map (by decide +kernel)⟩

end Sys2Proof.Tests
end

section
/-! PROOFS of the scope family (00_scope.md R7, R8): no step changes the configuration, every step keeps the invariant of
good states, and the lengths and offsets a command stores do not wrap. -/

namespace Sys2Proof.Machine

/-! ### The configuration -/

@[simp] theorem writeCmd_cfg (w : Word) (s : State) : (writeCmd w s).cfg = s.cfg := by
  cases hb : s.busy with
  | true => rw [writeCmd_busy w s hb]
  | false => rw [writeCmd_idle w s hb, acceptCommand_cfg]

@[simp] theorem writeWindow_cfg (o : Nat) (v : Word) (s : State) : (writeWindow o v s).cfg = s.cfg := by
  rcases writeWindow_cases o v s with e | ⟨-, e⟩ | ⟨-, e⟩ | ⟨-, e⟩ | ⟨-, e⟩ | ⟨-, e⟩ | ⟨-, e⟩ | ⟨-, e⟩ | ⟨-, e⟩ | ⟨-, e⟩ <;>
    simp [e]

@[simp] theorem performAccess_cfg (a : HostAccess) (s : State) : (performAccess a s).cfg = s.cfg := by
  rcases performAccess_cases a s with ⟨r, e⟩ | ⟨v, -, -, e⟩ | ⟨v, -, -, -, -, e⟩ <;> simp [e]

theorem exec_cfg {i : Instr} {s t : State} (h : exec i s = .next t) : t.cfg = s.cfg := by
  rcases exec_cases h with ⟨e, -, -, rfl⟩ | ⟨-, -, rfl⟩ | ⟨-, rfl⟩ | ⟨-, rfl⟩ | ⟨b, -, rfl⟩ | ⟨-, -, rfl⟩ | ⟨-, rfl⟩ |
    ⟨-, -, rfl⟩ | ⟨-, -, -, -, rfl⟩ | ⟨-, -, -, -, rfl⟩ <;> simp

theorem completionStep_cfg {s t : State} (h : completionStep s = .next t) : t.cfg = s.cfg := by
  rcases completionStep_cases h with ⟨i, -, hi⟩ | ⟨-, rfl⟩
  · exact exec_cfg hi
  · exact failedWith_cfg .illegalCommand s

/-- Settles O15, by the cases of a step. -/
theorem stepKeepsTheConfiguration : Obligations.StepKeepsTheConfiguration := by
  intro s t h
  rcases step_cases h with ⟨inbox, -, -, hc⟩ | ⟨a, -, -, -, rfl⟩ | ⟨inbox, -, rfl⟩ | ⟨rest, -, rfl⟩ |
    ⟨a, rest, -, -, -, rfl⟩ | ⟨a, rest, -, -, -, rfl⟩
  · simpa using completionStep_cfg hc
  · exact performAccess_cfg a _
  · rfl
  · rfl
  · rfl
  · exact performAccess_cfg a _

/-! ### Exact lengths and offsets -/

/-- BUF_SIZE is at most 2^31 in a legal configuration (R8). -/
theorem State.bufSize_le {s : State} (h : s.cfg.wellFormed = true) : s.bufSize ≤ 2 ^ 31 := by
  simp only [Config.wellFormed, Bool.and_eq_true, decide_eq_true_eq] at h
  exact Nat.pow_le_pow_right (by omega) h.2

/-- OUT_LEN = 12 + n does not wrap for a frame that fits BUF. -/
theorem outLen_toNat {s : State} (hc : s.cfg.wellFormed = true) {n : Word} (h : n.toNat + 12 ≤ s.bufSize) :
    (12#32 + n).toNat = 12 + n.toNat := by
  have := State.bufSize_le hc
  exact BitVec.toNat_add_of_lt (by simp only [BitVec.toNat_ofNat]; omega)

/-- CH_PAYLOAD_OFF = SRC_OFF + 8 does not wrap when the source range holds the fixed fields of a frame. -/
theorem payloadOff_toNat {s : State} (hc : s.cfg.wellFormed = true) (hs : srcInBuf s = true)
    (hl : 12 ≤ s.srcLen.toNat) : (s.srcOff + 8#32).toNat = s.srcOff.toNat + 8 := by
  have := State.bufSize_le hc
  rw [srcInBuf_iff] at hs
  exact BitVec.toNat_add_of_lt (by simp only [BitVec.toNat_ofNat]; omega)

/-- The payload of a parsed frame lies inside the source range, so inside BUF (10_state.md R41). -/
theorem takeFrame_payload_inside {s : State} (hc : s.cfg.wellFormed = true) (hs : srcInBuf s = true)
    (hl : (parseLen s).toNat + 12 ≤ s.srcLen.toNat) :
    (takeFrame s).chPayloadOff.toNat + (takeFrame s).chLen.toNat ≤ s.bufSize := by
  rw [takeFrame_chPayloadOff, takeFrame_chLen, payloadOff_toNat hc hs (by omega)]
  rw [srcInBuf_iff] at hs
  omega

/-- Settles O48: a successful command's frame fits BUF, and BUF_SIZE is at most 2^31. -/
theorem storedLengthsDoNotWrap : Obligations.StoredLengthsDoNotWrap := by
  intro s t hc
  constructor
  · intro h hok
    rcases execChunkParse_cases h with ⟨hs, hl, -, rfl⟩ | rfl | rfl | rfl | ⟨-, -, -, rfl⟩
    · have hn : (parseLen s).toNat + 12 ≤ s.bufSize := by
        rw [srcInBuf_iff] at hs
        omega
      exact ⟨outLen_toNat hc hn, payloadOff_toNat hc hs (by omega), takeFrame_payload_inside hc hs hl⟩
    all_goals simp at hok
  · intro h hok
    rcases execChunkEmit_cases h with ⟨-, hd, -, -, rfl⟩ | rfl | rfl | rfl
    · exact outLen_toNat hc (by omega)
    all_goals simp at hok

/-! ### The invariant under each update -/

section Inv

variable {s : State} (h : s.Inv)
include h

theorem reply_keeps_inv (r : Reply) : (reply r s).Inv := { h with }

theorem acceptCommand_keeps_inv (w : Word) : (acceptCommand w s).Inv :=
  { h with busy_not_done := fun _ => rfl }

theorem writeCmd_keeps_inv (w : Word) : (writeCmd w s).Inv := by
  cases hb : s.busy with
  | true => rw [writeCmd_busy w s hb]; exact { h with }
  | false => rw [writeCmd_idle w s hb]; exact acceptCommand_keeps_inv h w

theorem writeStatus_keeps_inv (v : Word) : (writeStatus v s).Inv :=
  { h with busy_not_done := fun hb => by simp [h.busy_not_done hb] }

theorem succeeded_keeps_inv : (succeeded s).Inv :=
  { h with err_iff_code := rfl, never_utf8 := nofun, busy_not_done := nofun }

theorem failedWith_keeps_inv {e : ErrCode} (hok : e ≠ .ok) (hutf : e ≠ .utf8Decode) : (failedWith e s).Inv :=
  { h with err_iff_code := (bne_iff_ne.mpr hok).symm, never_utf8 := hutf, busy_not_done := nofun }

theorem bufWrite_keeps_inv {o : Nat} {bs : List Byte} (hin : o + bs.length ≤ s.bufSize) : (bufWrite o bs s).Inv :=
  { h with
    buf_canonical := Memory.wf_setAll s.buf o bs h.buf_canonical
    buf_inside := Memory.below_setAll s.buf o s.bufSize bs h.buf_inside hin }

theorem setDescriptor_keeps_inv (n t c : Word) {off : Word} (hin : off.toNat + n.toNat ≤ s.bufSize) :
    (setDescriptor n t off c s).Inv :=
  { h with payload_inside := fun _ => hin }

theorem takeFrame_keeps_inv (hs : srcInBuf s = true) (hl : (parseLen s).toNat + 12 ≤ s.srcLen.toNat) :
    (takeFrame s).Inv :=
  { h with payload_inside := fun _ => takeFrame_payload_inside h.cfg_legal hs hl }

theorem writeWindow_keeps_inv (o : Nat) (v : Word) : (writeWindow o v s).Inv := by
  rcases writeWindow_cases o v s with e | ⟨-, e⟩ | ⟨-, e⟩ | ⟨-, e⟩ | ⟨-, e⟩ | ⟨-, e⟩ | ⟨-, e⟩ | ⟨-, e⟩ | ⟨-, e⟩ | ⟨-, e⟩ <;>
    rw [e]
  · exact h
  · exact writeCmd_keeps_inv h v
  · exact writeStatus_keeps_inv h v
  all_goals exact { h with }

theorem performAccess_keeps_inv (a : HostAccess) : (performAccess a s).Inv := by
  rcases performAccess_cases a s with ⟨r, e⟩ | ⟨v, -, -, e⟩ | ⟨v, -, -, -, hin, e⟩ <;> rw [e] <;>
    apply reply_keeps_inv
  · exact h
  · exact writeWindow_keeps_inv h a.offset v
  · exact bufWrite_keeps_inv h (by rwa [toLanes_length])

theorem performStalled_keeps_inv (a : HostAccess) : (performStalled a s).Inv :=
  performAccess_keeps_inv (s := { s with stalled := none }) { h with stalled_kind := nofun } a

theorem exec_keeps_inv {i : Instr} {t : State} (hx : exec i s = .next t) : t.Inv := by
  rcases exec_cases hx with ⟨e, hok, hutf, rfl⟩ | ⟨-, -, rfl⟩ | ⟨-, rfl⟩ | ⟨-, rfl⟩ | ⟨b, -, rfl⟩ | ⟨-, -, rfl⟩ |
    ⟨-, rfl⟩ | ⟨-, hs, rfl⟩ | ⟨-, hs, hl, -, rfl⟩ | ⟨-, -, hd, -, rfl⟩
  case inl => exact failedWith_keeps_inv h hok hutf
  case inr.inl => exact failedWith_keeps_inv (s := recordCrcs s) { h with } nofun nofun
  all_goals apply succeeded_keeps_inv
  · exact h
  iterate 4 exact { h with }
  · exact setDescriptor_keeps_inv h _ _ _ ((srcInBuf_iff s).mp hs)
  · exact takeFrame_keeps_inv h hs hl
  · have hb := bufWrite_keeps_inv h (o := s.dstOff.toNat) (bs := emitFrame s) (by rw [emitFrame_length]; omega)
    exact { hb with }

theorem completionStep_keeps_inv {t : State} (hc : completionStep s = .next t) : t.Inv := by
  rcases completionStep_cases hc with ⟨i, -, hi⟩ | ⟨-, rfl⟩
  · exact exec_keeps_inv h hi
  · exact failedWith_keeps_inv h nofun nofun

end Inv

/-- The invariant holds right after a reset in a legal configuration (70_reset_and_hazards.md R280). -/
theorem afterReset_inv {c : Config} (k : Nat) (hc : c.wellFormed = true) : (State.afterReset c k).Inv where
  cfg_legal := hc
  buf_canonical := Memory.wf_nil
  buf_inside := rfl
  err_iff_code := rfl
  never_utf8 := nofun
  busy_not_done := nofun
  payload_inside := nofun
  stalled_kind := nofun

theorem resetCore_inv {s : State} (hc : s.cfg.wellFormed = true) : (resetCore s).Inv :=
  { afterReset_inv (s.resets + 1) hc with }

/-- Settles O12, by the cases of a step: each is an update that keeps the invariant, or a reset, which restores it. -/
theorem stepKeepsTheInvariant : Obligations.StepKeepsTheInvariant := by
  intro s t h hstep
  have hin : ∀ inbox, State.Inv { s with inbox := inbox } := fun _ => { h with }
  rcases step_cases hstep with ⟨inbox, -, -, hc⟩ | ⟨a, -, -, -, rfl⟩ | ⟨inbox, -, rfl⟩ | ⟨rest, -, rfl⟩ |
    ⟨a, rest, -, -, hst, rfl⟩ | ⟨a, rest, -, -, -, rfl⟩
  · exact completionStep_keeps_inv (hin inbox) hc
  · exact performStalled_keeps_inv h a
  · exact hin inbox
  · exact resetCore_inv h.cfg_legal
  · have hk : stallable s.cfg a = true := (Bool.and_eq_true_iff.mp hst).2
    exact { h with stalled_kind := fun _ hb => Option.some.inj hb ▸ hk }
  · exact performAccess_keeps_inv (hin rest) a

end Sys2Proof.Machine
end

section
/-! PROOFS of the state family (10_state.md R25 to R44): the chunk descriptor and its CRC, CRC_STATE, the words of STATUS
and TYPE_FLAGS, and the host writes that change little or nothing. -/

namespace Sys2Proof.Machine

/-! ### The chunk descriptor -/

/-- The five registers of the chunk descriptor (10_state.md R40). -/
def State.descriptor (s : State) : Word × Word × Word × Word × Bool :=
  (s.chLen, s.chType, s.chPayloadOff, s.chCrc, s.chValid)

theorem State.descriptor_eq_iff (s t : State) : t.descriptor = s.descriptor ↔
    t.chLen = s.chLen ∧ t.chType = s.chType ∧ t.chPayloadOff = s.chPayloadOff ∧ t.chCrc = s.chCrc ∧
      t.chValid = s.chValid := by
  simp [State.descriptor]

theorem writeCmd_descriptor (w : Word) (s : State) : (writeCmd w s).descriptor = s.descriptor := by
  cases hb : s.busy with
  | true => rw [writeCmd_busy w s hb]; rfl
  | false => rw [writeCmd_idle w s hb]; rfl

theorem writeWindow_descriptor (o : Nat) (v : Word) (s : State) : (writeWindow o v s).descriptor = s.descriptor := by
  rcases writeWindow_cases o v s with e | ⟨-, e⟩ | ⟨-, e⟩ | ⟨-, e⟩ | ⟨-, e⟩ | ⟨-, e⟩ | ⟨-, e⟩ | ⟨-, e⟩ | ⟨-, e⟩ | ⟨-, e⟩ <;>
    rw [e]
  · exact writeCmd_descriptor v s
  all_goals rfl

theorem performAccess_descriptor (a : HostAccess) (s : State) : (performAccess a s).descriptor = s.descriptor := by
  rcases performAccess_cases a s with ⟨r, e⟩ | ⟨v, -, -, e⟩ | ⟨v, -, -, -, -, e⟩ <;> rw [e]
  · rfl
  · exact writeWindow_descriptor a.offset v s
  · rfl

/-! ### The CRC of the chunk (10_state.md R41, second condition) -/

/-- The CRC condition depends on the descriptor and on the payload bytes alone. -/
theorem chunkCrcHolds_congr {s t : State} (hd : t.descriptor = s.descriptor)
    (hp : ∀ k < s.chLen.toNat, bufByte t (s.chPayloadOff.toNat + k) = bufByte s (s.chPayloadOff.toNat + k))
    (h : s.chunkCrcHolds) : t.chunkCrcHolds := by
  obtain ⟨hlen, htype, hoff, hcrc, hvalid⟩ := (State.descriptor_eq_iff s t).mp hd
  intro hv
  rw [hcrc, htype, hoff, hlen, bufRead_congr s t _ _ _ hp]
  exact h (hvalid ▸ hv)

theorem setDescriptor_bufRead (n t off c : Word) (s : State) (o m : Nat) :
    bufRead (setDescriptor n t off c s) o m = bufRead s o m :=
  bufRead_congr s _ o o m fun _ _ => bufByte_congr (setDescriptor_buf n t off c s) (setDescriptor_resets n t off c s) _

theorem takeFrame_bufRead (s : State) (o m : Nat) : bufRead (takeFrame s) o m = bufRead s o m :=
  bufRead_congr s _ o o m fun _ _ => bufByte_congr (takeFrame_buf s) (takeFrame_resets s) _

/-- CHUNK_NEW stores the CRC of the type and of the source range, which it makes the payload (43_chunk_frame.md R190). -/
theorem newDescriptor_chunkCrcHolds (s : State) :
    (setDescriptor s.srcLen s.typeReg s.srcOff (crc32 (be32 s.typeReg ++ srcBytes s)) s).chunkCrcHolds := by
  intro _
  rw [setDescriptor_chCrc, setDescriptor_chType, setDescriptor_chPayloadOff, setDescriptor_chLen,
    setDescriptor_bufRead, srcBytes]

/-- The checksum region of a frame is its type and then its payload (43_chunk_frame.md R200 step 5). -/
theorem parseComputed_eq (s : State) : parseComputed s =
    crc32 (be32 (bufBe32 s (s.srcOff.toNat + 4)) ++ bufRead s (s.srcOff.toNat + 8) (parseLen s).toNat) := by
  rw [parseComputed, bufRead_append, be32_bufBe32]

/-- A frame whose CRC field agrees with the recomputed CRC gives a descriptor that meets the condition. -/
theorem takeFrame_chunkCrcHolds {s : State} (hc : s.cfg.wellFormed = true) (hs : srcInBuf s = true)
    (hl : (parseLen s).toNat + 12 ≤ s.srcLen.toNat) (heq : parseComputed s = parseStored s) : (takeFrame s).chunkCrcHolds := by
  intro _
  rw [takeFrame_chCrc, takeFrame_chType, takeFrame_chPayloadOff, takeFrame_chLen, takeFrame_bufRead,
    payloadOff_toNat hc hs (by omega), ← heq, parseComputed_eq]

/-- A completion writes STATUS alone, so it keeps the condition. -/
theorem succeeded_chunkCrcHolds {s : State} (h : s.chunkCrcHolds) : (succeeded s).chunkCrcHolds :=
  chunkCrcHolds_congr (s := s) rfl (fun _ _ => rfl) h

/-! ### What changes the descriptor -/

/-- A command leaves the descriptor, or it is CHUNK_NEW or CHUNK_PARSE, succeeds, and makes one that is valid and, in a
legal configuration, has the CRC of its type and payload. -/
theorem exec_descriptor_cases {i : Instr} {s t : State} (h : exec i s = .next t) :
    t.descriptor = s.descriptor ∨
    ((i = .chunkNew ∨ i = .chunkParse) ∧ t.errCode = .ok ∧ t.chValid = true ∧
      (s.cfg.wellFormed = true → t.chunkCrcHolds)) := by
  rcases exec_cases h with ⟨e, -, -, rfl⟩ | ⟨-, -, rfl⟩ | ⟨-, rfl⟩ | ⟨-, rfl⟩ | ⟨b, -, rfl⟩ | ⟨-, -, rfl⟩ | ⟨-, rfl⟩ |
    ⟨hi, -, rfl⟩ | ⟨hi, hs, hl, heq, rfl⟩ | ⟨-, -, -, -, rfl⟩
  iterate 7 exact .inl rfl
  · exact .inr ⟨.inl hi, rfl, rfl, fun _ => succeeded_chunkCrcHolds (newDescriptor_chunkCrcHolds s)⟩
  · exact .inr ⟨.inr hi, rfl, rfl, fun hc => succeeded_chunkCrcHolds (takeFrame_chunkCrcHolds hc hs hl heq)⟩
  · exact .inl rfl

/-- A step leaves the descriptor, or it is a reset, or the completion of a successful CHUNK_NEW or CHUNK_PARSE. -/
theorem step_descriptor_cases {s t : State} (h : step s = .next t) :
    t.descriptor = s.descriptor ∨
    ((∃ rest, s.inbox = .reset :: rest) ∧ t.chValid = false) ∨
    (s.busy = true ∧ (decode s.cmd = .ok .chunkNew ∨ decode s.cmd = .ok .chunkParse) ∧ t.errCode = .ok ∧
      t.chValid = true ∧ (s.cfg.wellFormed = true → t.chunkCrcHolds)) := by
  rcases step_cases h with ⟨inbox, hb, -, hc⟩ | ⟨a, -, -, -, rfl⟩ | ⟨inbox, -, rfl⟩ | ⟨rest, hr, rfl⟩ |
    ⟨a, rest, -, -, -, rfl⟩ | ⟨a, rest, -, -, -, rfl⟩
  · rcases completionStep_cases hc with ⟨i, hi, hx⟩ | ⟨-, rfl⟩
    · rcases exec_descriptor_cases hx with hd | ⟨rfl | rfl, hnew⟩
      · exact .inl hd
      · exact .inr (.inr ⟨hb, .inl hi, hnew⟩)
      · exact .inr (.inr ⟨hb, .inr hi, hnew⟩)
    · exact .inl rfl
  · exact .inl (performAccess_descriptor a { s with stalled := none })
  · exact .inl rfl
  · exact .inr (.inl ⟨⟨rest, hr⟩, rfl⟩)
  · exact .inl rfl
  · exact .inl (performAccess_descriptor a { s with inbox := rest })

/-- Settles O51: a step that leaves the descriptor keeps the condition with the payload bytes; a step that makes one
makes the condition so; and a reset leaves no valid descriptor. -/
theorem chunkCrcHoldsWhilePayloadIsUnwritten : Obligations.ChunkCrcHoldsWhilePayloadIsUnwritten := by
  intro s t hc hs hstep hp
  rcases step_descriptor_cases hstep with hd | ⟨-, hv⟩ | ⟨-, -, -, -, hcrc⟩
  · exact chunkCrcHolds_congr hd hp hs
  · exact fun hv' => absurd hv' (by simp [hv])
  · exact hcrc hc

/-- Settles O52, by what a step does to the descriptor. -/
theorem descriptorChangesOnlyByNewParseOrReset : Obligations.DescriptorChangesOnlyByNewParseOrReset := by
  intro s t h hne
  rcases step_descriptor_cases h with hd | ⟨hr, -⟩ | ⟨hb, hi, hok, hv, -⟩
  · obtain ⟨h1, h2, h3, h4, h5⟩ := (State.descriptor_eq_iff s t).mp hd
    simp [h1, h2, h3, h4, h5] at hne
  · exact .inr hr
  · exact .inl ⟨hb, hi, hok, hv⟩

/-! ### CRC_STATE -/

@[simp] theorem writeCmd_crcState (w : Word) (s : State) : (writeCmd w s).crcState = s.crcState := by
  cases hb : s.busy with
  | true => rw [writeCmd_busy w s hb]
  | false => rw [writeCmd_idle w s hb, acceptCommand_crcState]

/-- A host write to the register window leaves CRC_STATE, or it is a write to it, which stores its value. -/
theorem writeWindow_crcState_cases (o : Nat) (v : Word) (s : State) :
    (writeWindow o v s).crcState = s.crcState ∨ (o = 0x10 ∧ (writeWindow o v s).crcState = v) := by
  rcases writeWindow_cases o v s with e | ⟨-, e⟩ | ⟨-, e⟩ | ⟨-, e⟩ | ⟨ho, e⟩ | ⟨-, e⟩ | ⟨-, e⟩ | ⟨-, e⟩ | ⟨-, e⟩ | ⟨-, e⟩ <;>
    rw [e]
  iterate 4 simp
  · exact .inr ⟨ho, rfl⟩
  all_goals exact .inl rfl

/-- A host access leaves CRC_STATE, or it is a 32-bit write to it, which stores its value. -/
theorem performAccess_crcState_cases (a : HostAccess) (s : State) :
    (performAccess a s).crcState = s.crcState ∨
    a = ⟨.registers, 0x10, 32, .write (performAccess a s).crcState⟩ := by
  rcases performAccess_cases a s with ⟨r, e⟩ | ⟨v, ha, -, e⟩ | ⟨v, -, -, -, -, e⟩ <;> rw [e]
  · exact .inl rfl
  · rcases writeWindow_crcState_cases a.offset v s with hw | ⟨ho, hw⟩
    · exact .inl hw
    · exact .inr (by rw [reply_crcState, hw, ← ho]; exact ha)
  · exact .inl rfl

/-- No command but CRC_INIT, CRC_BYTE and CRC_BUF changes CRC_STATE (41_crc.md R152). -/
theorem exec_crcState_cases {i : Instr} {s t : State} (h : exec i s = .next t) :
    t.crcState = s.crcState ∨ i = .crcInit ∨ (∃ b, i = .crcByte b) ∨ i = .crcBuf := by
  rcases exec_cases h with ⟨e, -, -, rfl⟩ | ⟨-, -, rfl⟩ | ⟨-, rfl⟩ | ⟨hi, -⟩ | ⟨b, hi, -⟩ | ⟨hi, -⟩ | ⟨-, rfl⟩ |
    ⟨-, -, rfl⟩ | ⟨-, -, -, -, rfl⟩ | ⟨-, -, -, -, rfl⟩
  iterate 3 exact .inl rfl
  · exact .inr (.inl hi)
  · exact .inr (.inr (.inl ⟨b, hi⟩))
  · exact .inr (.inr (.inr hi))
  all_goals exact .inl rfl

/-- A write to CRC_STATE that does not stall finds the core idle (40_command_cycle.md R136). -/
theorem idle_of_crcState_write {s : State} {v : Word}
    (h : stallsNow s ⟨.registers, 0x10, 32, .write v⟩ = false) : s.busy = false := by
  have hk : stallable s.cfg ⟨.registers, 0x10, 32, .write v⟩ = true := by simp [stallable_iff]
  rwa [stallsNow, hk, Bool.and_true] at h

/-- Settles O37, by the cases of a step: an access changes CRC_STATE only as a write to it, and a completion only under
one of the three CRC commands. -/
theorem crcStateChangesOnlyByItsWriters : Obligations.CrcStateChangesOnlyByItsWriters := by
  intro s t h hne
  rcases step_cases h with ⟨inbox, hb, -, hc⟩ | ⟨a, hb, hst, -, rfl⟩ | ⟨inbox, -, rfl⟩ | ⟨rest, hr, -⟩ |
    ⟨a, rest, -, -, -, rfl⟩ | ⟨a, rest, hin, hst, hns, rfl⟩
  · rcases completionStep_cases hc with ⟨i, hi, hx⟩ | ⟨-, rfl⟩
    · exact .inl ⟨hb, i, hi, (exec_crcState_cases hx).resolve_left hne⟩
    · exact absurd rfl hne
  · have ha := (performAccess_crcState_cases a { s with stalled := none }).resolve_left hne
    exact .inr (.inl ⟨hb, _, rfl, .inr (hst.trans (congrArg some ha))⟩)
  · exact absurd rfl hne
  · exact .inr (.inr ⟨rest, hr⟩)
  · exact absurd rfl hne
  · have ha := (performAccess_crcState_cases a { s with inbox := rest }).resolve_left hne
    have hb : s.busy = false := idle_of_crcState_write (ha ▸ hns)
    exact .inr (.inl ⟨hb, _, rfl, .inl ⟨rest, hst, by rw [hin, ← ha]⟩⟩)

/-! ### Fields of a word as numbers -/

/-- The `n` bits of a word from bit `a`, as a number. -/
theorem field_toNat (w : Word) (a n : Nat) : w.toNat / 2 ^ a % 2 ^ n = (w.extractLsb' a n).toNat := by
  rw [BitVec.extractLsb'_toNat, Nat.shiftRight_eq_div_pow]

theorem getLsbD_eq_false_iff (w : Word) (k : Nat) : w.getLsbD k = false ↔ w.toNat / 2 ^ k % 2 = 0 := by
  simp [← BitVec.testBit_toNat, Nat.testBit_eq_decide_div_mod_eq]

/-! ### The word of STATUS -/

/-- Every bit of STATUS: the four status bits, and the code of the error from bit 8 (10_state.md R25). -/
theorem statusWord_getLsbD (s : State) (k : Nat) (h : k < 32) : (statusWord s).getLsbD k =
    (decide (k = 0) && s.busy || decide (k = 1) && s.done || decide (k = 2) && s.err || decide (k = 3) && s.ovr ||
      !decide (k < 8) && s.errCode.code.getLsbD (k - 8)) := by
  simp [statusWord, h]

theorem statusWord_code (s : State) : (statusWord s).extractLsb' 8 8 = s.errCode.code := by
  apply BitVec.eq_of_getLsbD_eq
  intro k hk
  simp [hk, Nat.add_comm 8 k, statusWord_getLsbD s (k + 8) (by omega)]

theorem statusWord_bits_7_4 (s : State) : (statusWord s).extractLsb' 4 4 = 0#4 := by
  apply BitVec.eq_of_getLsbD_eq
  intro k hk
  simp [hk, Nat.add_comm 4 k, statusWord_getLsbD s (k + 4) (by omega), show ¬ 4 ≤ k by omega]

theorem statusWord_bits_31_16 (s : State) : (statusWord s).extractLsb' 16 16 = 0#16 := by
  apply BitVec.eq_of_getLsbD_eq
  intro k hk
  simp [hk, Nat.add_comm 16 k, statusWord_getLsbD s (k + 16) (by omega)]

/-- Settles O25: the three fields of the word are bit ranges, read as numbers. -/
theorem statusWordLayout : Obligations.StatusWordLayout := by
  intro s
  have hlow : (statusWord s).toNat / 2 ^ 4 % 2 ^ 4 = 0 := by rw [field_toNat, statusWord_bits_7_4]; rfl
  have hcode : (statusWord s).toNat / 2 ^ 8 % 2 ^ 8 = s.errCode.code.toNat := by rw [field_toNat, statusWord_code]
  have hhigh : (statusWord s).toNat / 2 ^ 16 % 2 ^ 16 = 0 := by rw [field_toNat, statusWord_bits_31_16]; rfl
  refine ⟨by simp [statusWord], by simp [statusWord], by simp [statusWord], by simp [statusWord], hlow, by omega, ?_⟩
  intro p hp he
  have hcodes : p.1.code.toNat = p.2 := by
    clear he
    revert p
    decide
  exact (he ▸ hcode).trans hcodes

/-! ### The word of TYPE_FLAGS -/

@[simp] theorem bit5Clear_eq (b : Byte) : bit5Clear b = !b.getLsbD 5 := by
  rw [bit5Clear, show 0x20#8 = BitVec.twoPow 8 5 from rfl, BitVec.and_twoPow]
  cases b.getLsbD 5 <;> rfl

theorem isLetter_iff (b : Byte) : isLetter b = true ↔ letterCode b.toNat := by
  simp [isLetter, letterCode]

theorem allLetters_iff (t : Word) : allLetters t = true ↔
    letterCode (t.toNat / 2 ^ 24) ∧ letterCode (t.toNat / 2 ^ 16 % 256) ∧ letterCode (t.toNat / 2 ^ 8 % 256) ∧
      letterCode (t.toNat % 256) := by
  have htop : t.toNat / 16777216 % 256 = t.toNat / 16777216 := Nat.mod_eq_of_lt (by omega)
  simp [allLetters, isLetter_iff, typeByte_toNat, and_assoc, htop]

/-- The bits of the six properties of a type (10_state.md R33). -/
theorem typeProperties_getElem (t : Word) (k : Nat) (h : k < 32) : (typeProperties t)[k] =
    (decide (k = 0) && !t[29] || decide (k = 1) && !t[21] || decide (k = 2) && !t[13] || decide (k = 3) && t[5] ||
      decide (k = 4) && allLetters t || decide (k = 5) && (allLetters t && !t[13])) := by
  simp [typeProperties, isCritical, isPublic, isReservedBitValid, isSafeToCopy, isValid, typeByte]

theorem typeProperties_getLsbD_of_ge (t : Word) {k : Nat} (hk : 6 ≤ k) : (typeProperties t).getLsbD k = false := by
  rcases Nat.lt_or_ge k 32 with h | h
  · rw [BitVec.getLsbD_eq_getElem h, typeProperties_getElem]
    simp [show k ≠ 0 by omega, show k ≠ 1 by omega, show k ≠ 2 by omega, show k ≠ 3 by omega, show k ≠ 4 by omega,
      show k ≠ 5 by omega]
  · exact BitVec.getLsbD_of_ge _ k h

theorem typeFlags_getLsbD (s : State) (k : Nat) (h : k < 32) : (typeFlags s).getLsbD k =
    ((typeProperties s.typeReg).getLsbD k || !decide (k < 8) && (typeProperties s.chType).getLsbD (k - 8) ||
      decide (k = 16) && (s.typeReg == s.typeB) || decide (k = 17) && (s.chType == s.typeB)) := by
  simp [typeFlags, h, typeEq, show k - 8 < 32 by omega]

/-- TYPE_FLAGS shows the properties of TYPE in bits 7:0. -/
theorem typeFlags_type_bits (s : State) {k : Nat} (hk : k < 8) :
    (typeFlags s).getLsbD k = (typeProperties s.typeReg).getLsbD k := by
  rw [typeFlags_getLsbD s k (by omega)]
  simp [hk, show k ≠ 16 by omega, show k ≠ 17 by omega]

/-- TYPE_FLAGS shows the properties of CH_TYPE in bits 15:8. -/
theorem typeFlags_chType_bits (s : State) {k : Nat} (hk : k < 8) :
    (typeFlags s).getLsbD (8 + k) = (typeProperties s.chType).getLsbD k := by
  rw [typeFlags_getLsbD s (8 + k) (by omega), typeProperties_getLsbD_of_ge s.typeReg (by omega),
    Nat.add_sub_cancel_left]
  simp [show 8 + k ≠ 16 by omega, show 8 + k ≠ 17 by omega]

theorem typeFlags_type_eq (s : State) : (typeFlags s).getLsbD 16 = true ↔ s.typeReg = s.typeB := by
  rw [typeFlags_getLsbD s 16 (by omega), typeProperties_getLsbD_of_ge _ (by omega),
    typeProperties_getLsbD_of_ge _ (by omega)]
  simp

theorem typeFlags_chType_eq (s : State) : (typeFlags s).getLsbD 17 = true ↔ s.chType = s.typeB := by
  rw [typeFlags_getLsbD s 17 (by omega), typeProperties_getLsbD_of_ge _ (by omega),
    typeProperties_getLsbD_of_ge _ (by omega)]
  simp

theorem typeFlags_getLsbD_of_ge (s : State) {k : Nat} (hk : 18 ≤ k) : (typeFlags s).getLsbD k = false := by
  rcases Nat.lt_or_ge k 32 with h | h
  · rw [typeFlags_getLsbD s k h, typeProperties_getLsbD_of_ge _ (by omega), typeProperties_getLsbD_of_ge _ (by omega)]
    simp [show k ≠ 16 by omega, show k ≠ 17 by omega]
  · exact BitVec.getLsbD_of_ge _ k h

theorem typeFlags_of_zero {s : State} (h1 : s.typeReg = 0#32) (h2 : s.chType = 0#32) (h3 : s.typeB = 0#32) :
    typeFlags s = 0x00030707#32 := by
  rw [typeFlags, h1, h2, h3]
  decide

/-- Settles O39: each type has a group of eight bits, and both groups show the same property bits. -/
theorem typeFlagsBits : Obligations.TypeFlagsBits := by
  intro s f letters
  refine ⟨?_, typeFlags_type_eq s, typeFlags_chType_eq s, fun k hk => typeFlags_getLsbD_of_ge s hk, typeFlags_of_zero⟩
  have hgroup : ∀ p ∈ [(0, s.typeReg), (8, s.chType)], ∀ k < 8,
      f.getLsbD (p.1 + k) = (typeProperties p.2).getLsbD k := by
    intro p hp k hk
    simp only [List.mem_cons, List.not_mem_nil, or_false] at hp
    rcases hp with rfl | rfl
    · rw [Nat.zero_add]
      exact typeFlags_type_bits s hk
    · exact typeFlags_chType_bits s hk
  intro p hp
  have hbit := hgroup p hp
  have hall : allLetters p.2 = true ↔ letters p.2 := allLetters_iff p.2
  have h0 : f.getLsbD p.1 = (typeProperties p.2).getLsbD 0 := hbit 0 (by omega)
  simp [h0, hbit, typeProperties_getElem, hall]

/-! ### Host writes -/

/-- A host write outside the nine writable registers of the window changes nothing (10_state.md R43, R44). -/
theorem writeWindow_of_not_writable {o : Nat} (h : o ∉ [0x04, 0x08, 0x0C, 0x10, 0x18, 0x1C, 0x20, 0x24, 0x28]) (v : Word)
    (s : State) : writeWindow o v s = s := by
  simp only [List.mem_cons, List.not_mem_nil, or_false, not_or] at h
  obtain ⟨h1, h2, h3, h4, h5, h6, h7, h8, h9⟩ := h
  simpa [h1, h2, h3, h4, h5, h6, h7, h8, h9] using writeWindow_cases o v s

/-- The step of a host write to an aligned offset outside the six operand registers: with no access stalled it is
performed at once, whether or not the core is busy (40_command_cycle.md R136). -/
theorem step_registerWrite {s : State} {o : Nat} {v : Word} {rest : List Event} (hst : s.stalled = none)
    (hin : s.inbox = .access ⟨.registers, o, 32, .write v⟩ :: rest) (halign : o % 4 = 0) (hwin : o + 4 ≤ 256)
    (ho : o ∉ [0x10, 0x18, 0x1C, 0x20, 0x24, 0x28]) :
    step s = .next (reply .accepted (writeWindow o v { s with inbox := rest })) := by
  have hstall : stallable s.cfg ⟨.registers, o, 32, .write v⟩ = false := by
    rw [Bool.eq_false_iff, ne_eq, stallable_iff]
    rintro (⟨-, -, -, hmem⟩ | ⟨hbuf, -⟩)
    · exact ho hmem
    · cases hbuf
  have hadm : admissible s.cfg ⟨.registers, o, 32, .write v⟩ = true := by
    simp [admissible, regWindowSize, halign, hwin]
  simp [step, hin, hostTurn, hst, stallsNow, hstall, performAccess, hadm]

/-- Settles O23: the eleven offsets are aligned offsets of the window, and none is writable. -/
theorem readOnlyRegisterWritesAreIgnored : Obligations.ReadOnlyRegisterWritesAreIgnored := by
  intro s v rest o ho hst hin
  obtain ⟨halign, hwin, hnostall, hnowrite⟩ : o % 4 = 0 ∧ o + 4 ≤ 256 ∧ o ∉ [0x10, 0x18, 0x1C, 0x20, 0x24, 0x28] ∧
      o ∉ [0x04, 0x08, 0x0C, 0x10, 0x18, 0x1C, 0x20, 0x24, 0x28] := by
    clear hin
    revert o
    decide
  rw [step_registerWrite hst hin halign hwin hnostall, writeWindow_of_not_writable hnowrite]
  rfl

theorem writeStatus_done_iff (v : Word) (s : State) :
    (writeStatus v s).done = true ↔ s.done = true ∧ v.toNat / 2 ^ 1 % 2 = 0 := by
  rw [writeStatus_done, Bool.and_eq_true, Bool.not_eq_true', getLsbD_eq_false_iff]

theorem writeStatus_ovr_iff (v : Word) (s : State) :
    (writeStatus v s).ovr = true ↔ s.ovr = true ∧ v.toNat / 2 ^ 3 % 2 = 0 := by
  rw [writeStatus_ovr, Bool.and_eq_true, Bool.not_eq_true', getLsbD_eq_false_iff]

/-- Settles O24: STATUS is no operand register, so the write is performed at once. -/
theorem statusWriteClearsOnlyDoneAndOverrun : Obligations.StatusWriteClearsOnlyDoneAndOverrun := by
  intro s v rest hst hin
  have hstep := step_registerWrite hst hin (by decide) (by decide) (by decide)
  exact ⟨_, hstep, rfl, writeStatus_done_iff v { s with inbox := rest }, writeStatus_ovr_iff v { s with inbox := rest }⟩

end Sys2Proof.Machine
end

section
/-! PROOFS of the memory family (20_memory.md R70 to R79): the accesses the core admits, bus errors, reads without side
effects, and the byte lanes of BUF. -/

namespace Sys2Proof.Machine

/-! ### Admitted accesses and bus errors -/

/-- The admitted accesses (20_memory.md R72), by window, width and offset. -/
theorem admissible_iff (c : Config) (a : HostAccess) : admissible c a = true ↔
    (a.window = .registers ∧ a.width = 32 ∧ a.offset % 4 = 0 ∧ a.offset + 4 ≤ 256) ∨
    (a.window = .buffer ∧ a.width = 8 ∧ a.offset + 1 ≤ c.bufSize) ∨
    (a.window = .buffer ∧ a.width = 16 ∧ a.offset % 2 = 0 ∧ a.offset + 2 ≤ c.bufSize) ∨
    (a.window = .buffer ∧ a.width = 32 ∧ a.offset % 4 = 0 ∧ a.offset + 4 ≤ c.bufSize) := by
  obtain ⟨w, o, n, k⟩ := a
  cases w with
  | registers => simp [admissible, regWindowSize, and_assoc]
  | buffer =>
    simp only [admissible, Bool.and_eq_true, Bool.or_eq_true, beq_iff_eq, decide_eq_true_eq, reduceCtorEq, false_and,
      false_or, true_and]
    constructor
    · rintro ⟨(rfl | ⟨rfl, ho⟩) | ⟨rfl, ho⟩, hin⟩
      · exact .inl ⟨rfl, hin⟩
      · exact .inr (.inl ⟨rfl, ho, hin⟩)
      · exact .inr (.inr ⟨rfl, ho, hin⟩)
    · rintro (⟨rfl, hin⟩ | ⟨rfl, ho, hin⟩ | ⟨rfl, ho, hin⟩)
      · exact ⟨.inl (.inl rfl), hin⟩
      · exact ⟨.inl (.inr ⟨rfl, ho⟩), hin⟩
      · exact ⟨.inr ⟨rfl, ho⟩, hin⟩

theorem performAccess_of_not_admissible {a : HostAccess} {s : State} (h : admissible s.cfg a = false) :
    performAccess a s = reply .busError s := by
  simp [performAccess, h]

@[simp] theorem writeCmd_replies (w : Word) (s : State) : (writeCmd w s).replies = s.replies := by
  cases hb : s.busy with
  | true => rw [writeCmd_busy w s hb]
  | false => rw [writeCmd_idle w s hb, acceptCommand_replies]

@[simp] theorem writeWindow_replies (o : Nat) (v : Word) (s : State) : (writeWindow o v s).replies = s.replies := by
  rcases writeWindow_cases o v s with e | ⟨-, e⟩ | ⟨-, e⟩ | ⟨-, e⟩ | ⟨-, e⟩ | ⟨-, e⟩ | ⟨-, e⟩ | ⟨-, e⟩ | ⟨-, e⟩ | ⟨-, e⟩ <;>
    simp [e]

/-- An admitted access gets one reply when it is performed, and not a bus error. -/
theorem performAccess_replies_of_admissible {a : HostAccess} {s : State} (h : admissible s.cfg a = true) :
    ∃ r, (performAccess a s).replies = r :: s.replies ∧ r ≠ .busError := by
  obtain ⟨w, o, n, k⟩ := a
  rw [performAccess, if_pos h]
  cases w <;> cases k
  case registers.read => exact ⟨_, rfl, nofun⟩
  case registers.write v => exact ⟨_, congrArg (Reply.accepted :: ·) (writeWindow_replies o v s), nofun⟩
  case buffer.read => exact ⟨_, rfl, nofun⟩
  case buffer.write => exact ⟨_, rfl, nofun⟩

/-- The step of an access that does not stall: it is performed. -/
theorem step_access {s : State} {a : HostAccess} {rest : List Event} (hst : s.stalled = none)
    (hin : s.inbox = .access a :: rest) (hns : stallsNow s a = false) :
    step s = .next (performAccess a { s with inbox := rest }) := by
  simp [step, hin, hostTurn, hst, hns]

/-- A bus-error access never stalls (40_command_cycle.md R136). -/
theorem stallsNow_of_not_admissible {s : State} {a : HostAccess} (h : admissible s.cfg a = false) :
    stallsNow s a = false := by
  simp [stallsNow, stallable, h]

/-- With the core idle no access stalls; with it busy, none to the register window stalls that is no write to an operand
register (40_command_cycle.md R136). -/
theorem stallsNow_eq_false_of_busy_imp {s : State} {a : HostAccess} (h : s.busy = true → a.window = .registers ∧
      ∀ v, a.kind = .write v → a.offset ∉ [0x10, 0x18, 0x1C, 0x20, 0x24, 0x28]) : stallsNow s a = false := by
  rw [Bool.eq_false_iff, stallsNow, ne_eq, Bool.and_eq_true, stallable_iff]
  rintro ⟨hb, ⟨-, -, ⟨v, hv⟩, ho⟩ | ⟨hw, -⟩⟩
  · exact (h hb).2 v hv ho
  · exact absurd ((h hb).1.symm.trans hw) nofun

/-- Settles O19: R72's accesses are those `admissible` admits, the others do not stall, and performing an access answers
`busError` exactly for the others. -/
theorem busErrorExactlyForOtherAccesses : Obligations.BusErrorExactlyForOtherAccesses := by
  intro s a rest hst hin admitted
  have hadm : admissible s.cfg a = true ↔ admitted := admissible_iff s.cfg a
  refine ⟨fun hno => ?_, fun hyes hk => ?_, fun hyes => performAccess_replies_of_admissible (hadm.mpr hyes)⟩
  · have hn : admissible s.cfg a = false := Bool.eq_false_iff.mpr (mt hadm.mp hno)
    rw [step_access hst hin (stallsNow_of_not_admissible hn),
      performAccess_of_not_admissible (s := { s with inbox := rest }) hn]
    rfl
  · obtain ⟨r, hr⟩ := performAccess_replies_of_admissible (s := { s with inbox := rest }) (hadm.mpr hyes)
    exact ⟨_, r, step_access hst hin (stallsNow_eq_false_of_busy_imp hk), hr⟩

/-! ### Reads -/

/-- Settles O21: of what an access can do, a read can only reply. -/
theorem hostReadsHaveNoSideEffects : Obligations.HostReadsHaveNoSideEffects := by
  intro s w o n
  rcases performAccess_cases ⟨w, o, n, .read⟩ s with ⟨r, e⟩ | ⟨v, ha, -⟩ | ⟨v, -, hk, -⟩
  · exact ⟨r, e⟩
  · cases congrArg HostAccess.kind ha
  · cases hk

/-! ### The byte lanes of BUF -/

/-- Up to four bytes in little-endian lanes leave the bits above them 0. -/
theorem fromLanes_toNat_lt (bs : List Byte) (h : bs.length ≤ 4) : (fromLanes bs).toNat < 256 ^ bs.length := by
  induction bs with
  | nil => simp [fromLanes]
  | cons b bs ih =>
    simp only [List.length_cons] at h ⊢
    have hlt := ih (by omega)
    have hle : 256 ^ bs.length ≤ 256 ^ 3 := Nat.pow_le_pow_right (by omega) (by omega)
    rw [fromLanes_cons_toNat b bs (by omega), Nat.pow_succ]
    omega

/-- Byte `k` of up to four bytes in little-endian lanes is the `k`-th of them. -/
theorem fromLanes_toNat_byte (bs : List Byte) (k : Nat) (h : bs.length ≤ 4) (hk : k < bs.length) :
    (fromLanes bs).toNat / 256 ^ k % 256 = bs[k].toNat := by
  induction bs generalizing k with
  | nil => simp at hk
  | cons b bs ih =>
    simp only [List.length_cons] at h hk
    have hlt := fromLanes_toNat_lt bs (by omega)
    have hle : 256 ^ bs.length ≤ 256 ^ 3 := Nat.pow_le_pow_right (by omega) (by omega)
    rw [fromLanes_cons_toNat b bs (by omega)]
    cases k with
    | zero =>
      rw [List.getElem_cons_zero]
      omega
    | succ k =>
      rw [List.getElem_cons_succ, ← ih k (by omega) (by omega), Nat.pow_succ', ← Nat.div_div_eq_div_mul]
      congr 2
      omega

/-- Four bytes in little-endian lanes, read as a big-endian word, are in reverse (20_memory.md R76). -/
theorem be32_fromLanes (bs : List Byte) (h : bs.length = 4) : be32 (fromLanes bs) = bs.reverse := by
  apply List.ext_getElem (by simp [h])
  intro k hk _
  rw [be32_length] at hk
  apply BitVec.eq_of_toNat_eq
  rw [be32_getElem, List.getElem_reverse, typeByte_toNat _ k hk, fromLanes_toNat_byte bs (3 - k) (by omega) (by omega)]
  simp [h]

theorem admissible_buffer {c : Config} {o n : Nat} (k : AccessKind) (hn : n ∈ [1, 2, 4]) (ho : o % n = 0)
    (hin : o + n ≤ c.bufSize) : admissible c ⟨.buffer, o, 8 * n, k⟩ = true := by
  rw [admissible_iff]
  simp only [List.mem_cons, List.not_mem_nil, or_false] at hn
  rcases hn with rfl | rfl | rfl
  · exact .inr (.inl ⟨rfl, rfl, hin⟩)
  · exact .inr (.inr (.inl ⟨rfl, rfl, ho, hin⟩))
  · exact .inr (.inr (.inr ⟨rfl, rfl, ho, hin⟩))

section BufferAccess

variable {s : State} {o n : Nat} (hn : n ∈ [1, 2, 4]) (ho : o % n = 0) (hin : o + n ≤ s.bufSize)
include hn ho hin

theorem performAccess_bufferWrite (v : Word) :
    performAccess ⟨.buffer, o, 8 * n, .write v⟩ s = reply .accepted (bufWrite o (toLanes n v) s) := by
  have h := admissible_buffer (c := s.cfg) (.write v) hn ho hin
  simp [performAccess, h]

theorem performAccess_bufferRead :
    performAccess ⟨.buffer, o, 8 * n, .read⟩ s = reply (.data (fromLanes (bufRead s o n))) s := by
  have h := admissible_buffer (c := s.cfg) .read hn ho hin
  simp [performAccess, h]

end BufferAccess

@[simp] theorem bufByte_reply (r : Reply) (s : State) (a : Nat) : bufByte (reply r s) a = bufByte s a := rfl

/-- Settles O26: a write stores the lanes of its value, a read returns the lanes of the bytes. -/
theorem bufferAccessesAreLittleEndian : Obligations.BufferAccessesAreLittleEndian := by
  intro s o n v hn ho hin
  have h4 : n ≤ 4 := (by decide : ∀ m ∈ [1, 2, 4], m ≤ 4) n hn
  constructor
  · refine ⟨_, performAccess_bufferWrite hn ho hin v, rfl, fun k hk => ?_, fun a ha => ?_⟩
    · have hk' : k < (toLanes n v).length := by rwa [toLanes_length]
      rw [bufByte_reply, bufByte_bufWrite_inside s o k _ hk', toLanes_getElem_toNat n v k hk']
    · rw [bufByte_reply, bufByte_bufWrite_outside s o a _ (by rwa [toLanes_length])]
  · refine ⟨_, performAccess_bufferRead hn ho hin, fun k hk => ?_, ?_⟩
    · rw [fromLanes_toNat_byte _ k (by rwa [bufRead_length]) (by rwa [bufRead_length]), bufRead_getElem]
    · simpa using fromLanes_toNat_lt (bufRead s o n) (by rwa [bufRead_length])

/-- Settles O27: the four bytes are the be32 of `v`, and the host reads them in little-endian lanes. -/
theorem bigEndianFieldsReadByteReversed : Obligations.BigEndianFieldsReadByteReversed := by
  intro s o v ho hin hv
  have hbytes : bufRead s o 4 = be32 v := by
    rw [← be32_bufBe32, BitVec.eq_of_toNat_eq ((bufBe32_toNat s o).trans hv)]
  refine ⟨_, performAccess_bufferRead (n := 4) (by decide) ho hin, ?_⟩
  rw [be32_fromLanes _ (bufRead_length s o 4), hbytes]

end Sys2Proof.Machine
end

section
/-! PROOFS of the encoding family (30_encoding.md R100 to R105): decoding and encoding are inverse, the legal words are
the words that decode, the match and mask table, and the frame of every command. -/

namespace Sys2Proof

/-! ### Decoding is the inverse of encoding -/

/-- The three fields are the whole word (30_encoding.md R100). -/
theorem cmdFields_injective : Function.Injective cmdFields := by
  intro v w h
  have hopc : v.toNat % 256 = w.toNat % 256 := by rw [← cmdFields_opc_toNat, h, cmdFields_opc_toNat]
  have himm : v.toNat / 256 % 256 = w.toNat / 256 % 256 := by rw [← cmdFields_imm8_toNat, h, cmdFields_imm8_toNat]
  have hrsvd : v.toNat / 65536 = w.toNat / 65536 := by rw [← cmdFields_rsvd_toNat, h, cmdFields_rsvd_toNat]
  exact BitVec.eq_of_toNat_eq (by omega)

theorem immediateAllowed_iff (f : CmdFields) : f.immediateAllowed = true ↔ f.imm8 = 0#8 ∨ f.opc = 0x02#8 := by
  simp [CmdFields.immediateAllowed]

/-- An OPC with an IMM8 that it allows names the command whose opcode and immediate they are (30_encoding.md R103). -/
theorem opcodeMap_eq_some_iff {opc imm8 : Byte} (himm : imm8 = 0#8 ∨ opc = 0x02#8) (i : Instr) :
    opcodeMap opc imm8 = some i ↔ opc = i.opcode ∧ imm8 = i.immediate := by
  constructor
  · intro h
    unfold opcodeMap at h
    split_ifs at h <;> cases h <;> simp_all [Instr.opcode, Instr.immediate]
  · rintro ⟨rfl, rfl⟩
    cases i <;> rfl

/-- What the decoder accepts: RSVD = 0, a defined OPC, and an allowed IMM8 (30_encoding.md R104). -/
theorem decode_eq_ok_iff (w : Word) (i : Instr) : decode w = .ok i ↔
    (cmdFields w).rsvd = 0#16 ∧ (cmdFields w).immediateAllowed = true ∧
      opcodeMap (cmdFields w).opc (cmdFields w).imm8 = some i := by
  simp only [decode]
  split
  next hr => simp [hr]
  next hr =>
    rw [not_ne_iff] at hr
    split
    next hmap => simp [hmap]
    next j hmap =>
      split
      next himm => simp [hr, hmap, himm]
      next himm => simp [himm]

theorem immediate_eq_zero_or (i : Instr) : i.immediate = 0#8 ∨ i.opcode = 0x02#8 := by
  cases i with
  | crcByte b => exact .inr rfl
  | nop | crcInit | crcBuf | typeLoadStr | chunkNew | chunkParse | chunkEmit => exact .inl rfl

/-- The encoding of a command is the one word that decodes to it. -/
theorem decode_eq_ok_iff_encode (w : Word) (i : Instr) : decode w = .ok i ↔ encode i = w := by
  rw [← cmdFields_injective.eq_iff, cmdFields_encode, decode_eq_ok_iff, immediateAllowed_iff]
  generalize cmdFields w = f
  constructor
  · rintro ⟨hrsvd, himm, hmap⟩
    obtain ⟨hopc, hi⟩ := (opcodeMap_eq_some_iff himm i).mp hmap
    rw [← hopc, ← hi, ← hrsvd]
  · rintro rfl
    exact ⟨rfl, immediate_eq_zero_or i, (opcodeMap_eq_some_iff (immediate_eq_zero_or i) i).mpr ⟨rfl, rfl⟩⟩

/-- Settles O2: the encoding of a command is the one word that decodes to it. -/
theorem decodeAndEncodeAgree : Obligations.DecodeAndEncodeAgree :=
  ⟨fun i _ => (decode_eq_ok_iff_encode _ i).mpr rfl, fun w i => (decode_eq_ok_iff_encode w i).mp⟩

/-- Settles O1: each word is the encoding of its command. -/
theorem decodeReadsTheCommandWords : Obligations.DecodeReadsTheCommandWords := by
  simp only [Obligations.DecodeReadsTheCommandWords, decode_eq_ok_iff_encode]
  decide

/-! ### Legal words -/

theorem mem_definedOpcodes_iff (b : Byte) :
    b ∈ definedOpcodes ↔ b.toNat ∈ [0x00, 0x01, 0x02, 0x03, 0x08, 0x10, 0x11, 0x12] := by
  simp [definedOpcodes, ← BitVec.toNat_inj]

/-- R104's three conditions on the word as a number. -/
theorem legalWord_iff (w : Word) : legalWord w = true ↔
    w.toNat % 256 ∈ [0x00, 0x01, 0x02, 0x03, 0x08, 0x10, 0x11, 0x12] ∧ w.toNat / 65536 = 0 ∧
      (w.toNat / 256 % 256 = 0 ∨ w.toNat % 256 = 0x02) := by
  rw [← cmdFields_opc_toNat, ← cmdFields_imm8_toNat, ← cmdFields_rsvd_toNat, ← mem_definedOpcodes_iff, legalWord]
  simp [CmdFields.wellFormed, CmdFields.opcodeDefined, CmdFields.reservedClear, immediateAllowed_iff, ← BitVec.toNat_inj,
    and_assoc]

theorem opcode_mem_definedOpcodes (i : Instr) : i.opcode ∈ definedOpcodes := by
  cases i <;> simp [Instr.opcode, definedOpcodes]

theorem exists_opcodeMap_of_mem {opc : Byte} (h : opc ∈ definedOpcodes) (imm8 : Byte) :
    ∃ i, opcodeMap opc imm8 = some i := by
  simp only [definedOpcodes, List.mem_cons, List.not_mem_nil, or_false] at h
  rcases h with rfl | rfl | rfl | rfl | rfl | rfl | rfl | rfl <;> exact ⟨_, rfl⟩

/-- The legal words are the words that decode (30_encoding.md R104). -/
theorem legalWord_iff_decodes (w : Word) : legalWord w = true ↔ ∃ i, decode w = .ok i := by
  simp only [legalWord, CmdFields.wellFormed, CmdFields.opcodeDefined, CmdFields.reservedClear, Bool.and_eq_true,
    List.contains_iff_mem, beq_iff_eq]
  constructor
  · rintro ⟨⟨hopc, hrsvd⟩, himm⟩
    obtain ⟨i, hi⟩ := exists_opcodeMap_of_mem hopc (cmdFields w).imm8
    exact ⟨i, (decode_eq_ok_iff w i).mpr ⟨hrsvd, himm, hi⟩⟩
  · rintro ⟨i, hi⟩
    obtain ⟨hrsvd, himm, -⟩ := (decode_eq_ok_iff w i).mp hi
    rw [decode_eq_ok_iff_encode] at hi
    refine ⟨⟨?_, hrsvd⟩, himm⟩
    rw [← hi, cmdFields_encode]
    exact opcode_mem_definedOpcodes i

theorem encode_toNat_mod (i : Instr) : (encode i).toNat % 256 = i.opcode.toNat := by
  rw [← cmdFields_opc_toNat, cmdFields_encode]

/-! ### The match and mask table -/

theorem mem_opcodeRows_iff (r : OpcodeRow) : r ∈ opcodeRows ↔ ∃ i : Instr, i.row = r := by
  constructor
  · simp only [opcodeRows, List.mem_cons, List.not_mem_nil, or_false]
    rintro (h | h | h | h | h | h | h | h) <;> exact ⟨_, h.symm⟩
  · rintro ⟨i, rfl⟩
    cases i <;> simp [opcodeRows, Instr.row]

/-- The row of a command other than CRC_BYTE fixes the whole word. -/
theorem row_eq_of_ne_crcByte {i : Instr} (h : ∀ b, i ≠ .crcByte b) : i.row = ⟨encode i, BitVec.allOnes 32⟩ := by
  cases i with
  | crcByte b => exact absurd rfl (h b)
  | nop | crcInit | crcBuf | typeLoadStr | chunkNew | chunkParse | chunkEmit => decide

/-- The mask of CRC_BYTE's row keeps OPC and RSVD and clears IMM8. -/
theorem cmdFields_and_crcByte_mask (w : Word) (b : Byte) :
    cmdFields (w &&& (Instr.crcByte b).row.mask) = ⟨(cmdFields w).opc, 0#8, (cmdFields w).rsvd⟩ := by
  have h8 (x : BitVec 8) : x &&& 0xFF#8 = x := BitVec.and_allOnes
  have h16 (x : BitVec 16) : x &&& 0xFFFF#16 = x := BitVec.and_allOnes
  simp [cmdFields, Instr.row, BitVec.extractLsb'_and, h8, h16]

theorem crcByte_matchBits (b : Byte) : (Instr.crcByte b).row.matchBits = encode (.crcByte 0#8) := by
  change 0x00000002#32 = encode (.crcByte 0#8)
  decide

theorem matches_crcByte_row_iff (w : Word) (b : Byte) :
    w &&& (Instr.crcByte b).row.mask = (Instr.crcByte b).row.matchBits ↔ ∃ c, encode (.crcByte c) = w := by
  simp only [← cmdFields_injective.eq_iff, cmdFields_and_crcByte_mask, crcByte_matchBits, cmdFields_encode]
  obtain ⟨opc, imm8, rsvd⟩ := cmdFields w
  constructor
  · intro h
    obtain ⟨rfl, -, rfl⟩ := CmdFields.mk.inj h
    exact ⟨imm8, rfl⟩
  · rintro ⟨c, h⟩
    obtain ⟨rfl, -, rfl⟩ := CmdFields.mk.inj h
    rfl

theorem encode_matches_row (i : Instr) : encode i &&& i.row.mask = i.row.matchBits := by
  by_cases hi : ∃ b, i = .crcByte b
  · obtain ⟨b, rfl⟩ := hi
    exact (matches_crcByte_row_iff _ b).mpr ⟨b, rfl⟩
  · rw [row_eq_of_ne_crcByte (not_exists.mp hi), BitVec.and_allOnes]

theorem exists_encode_of_matches_row {w : Word} {i : Instr} (h : w &&& i.row.mask = i.row.matchBits) :
    ∃ j, encode j = w ∧ j.row = i.row := by
  by_cases hi : ∃ b, i = .crcByte b
  · obtain ⟨b, rfl⟩ := hi
    obtain ⟨c, hc⟩ := (matches_crcByte_row_iff w b).mp h
    exact ⟨.crcByte c, hc, rfl⟩
  · rw [row_eq_of_ne_crcByte (not_exists.mp hi), BitVec.and_allOnes] at h
    exact ⟨i, h.symm, rfl⟩

/-- The words that match the row of a command are those that decode to a command of that row. -/
theorem matches_row_iff (w : Word) (i : Instr) :
    w &&& i.row.mask = i.row.matchBits ↔ ∃ j, decode w = .ok j ∧ j.row = i.row := by
  simp only [decode_eq_ok_iff_encode]
  constructor
  · exact exists_encode_of_matches_row
  · rintro ⟨j, rfl, hrow⟩
    exact hrow ▸ encode_matches_row j

/-- Settles O4: the rows are those of the commands, and a row is matched by the words that decode to a command of it; so
two rows that match one word are the row of the command it decodes to. -/
theorem matchMaskTableAgreesWithDecoder : Obligations.MatchMaskTableAgreesWithDecoder := by
  intro w
  have decodes : ∀ r ∈ opcodeRows, w &&& r.mask = r.matchBits → ∃ i, decode w = .ok i ∧ i.row = r := by
    intro r hr hm
    obtain ⟨i, rfl⟩ := (mem_opcodeRows_iff r).mp hr
    exact (matches_row_iff w i).mp hm
  refine ⟨fun i hi => ⟨(mem_opcodeRows_iff _).mpr ⟨i, rfl⟩, (matches_row_iff w i).mpr ⟨i, hi, rfl⟩⟩, decodes,
    fun r hr q hq hmr hmq => ?_⟩
  obtain ⟨i, hi, rfl⟩ := decodes r hr hmr
  obtain ⟨j, hj, rfl⟩ := decodes q hq hmq
  cases hi.symm.trans hj
  rfl

end Sys2Proof

namespace Sys2Proof.Machine

/-! ### The life of an illegal word -/

/-- A write to CMD of an idle core with no access stalled is accepted, whatever the word (40_command_cycle.md R130). -/
theorem step_cmdWrite_idle {s : State} {w : Word} {rest : List Event} (hidle : s.busy = false) (hst : s.stalled = none)
    (hin : s.inbox = .access ⟨.registers, 0x04, 32, .write w⟩ :: rest) :
    step s = .next (reply .accepted (acceptCommand w { s with inbox := rest })) := by
  have hwrite : writeWindow 0x04 w { s with inbox := rest } = acceptCommand w { s with inbox := rest } :=
    writeCmd_idle w { s with inbox := rest } hidle
  rw [step_registerWrite hst hin (by decide) (by decide) (by decide), hwrite]

theorem completionStep_of_no_command {s : State} (h : ∀ i, decode s.cmd ≠ .ok i) :
    completionStep s = .next (failedWith .illegalCommand s) := by
  unfold completionStep
  split
  · exact absurd ‹_› (h _)
  · rfl

/-- Settles O3: legality on numbers is the decoder's, an illegal word takes the general way into CMD, and the completion
finds no command in it. -/
theorem legalityDecidesTheOutcome : Obligations.LegalityDecidesTheOutcome := by
  intro w legal
  have hlegal : legal ↔ ∃ i, decode w = .ok i := (legalWord_iff w).symm.trans (legalWord_iff_decodes w)
  refine ⟨hlegal, fun i hi => ?_, fun s rest _ hidle hst hin => ?_, fun s rest hno hbusy hcmd hin => ?_⟩
  · rw [← (decode_eq_ok_iff_encode w i).mp hi, encode_toNat_mod]
  · exact step_cmdWrite_idle hidle hst hin
  · have hnone : ∀ i, decode s.cmd ≠ .ok i := fun i hi => hno (hlegal.mpr ⟨i, hcmd ▸ hi⟩)
    simp only [step, hin, coreTurn, hbusy]
    exact completionStep_of_no_command hnone

/-! ### The frame of every command -/

section Frame

variable {i : Instr} {s t : State} (h : exec i s = .next t)
include h

/-- What no command writes (30_encoding.md R102). -/
theorem exec_keeps_inputs : t.cfg = s.cfg ∧ t.cmd = s.cmd ∧ t.ie = s.ie ∧ t.ovr = s.ovr ∧ t.srcOff = s.srcOff ∧
    t.srcLen = s.srcLen ∧ t.dstOff = s.dstOff ∧ t.typeB = s.typeB ∧ t.resets = s.resets ∧ t.stalled = s.stalled ∧
    t.inbox = s.inbox ∧ t.replies = s.replies := by
  rcases exec_cases h with ⟨e, -, -, rfl⟩ | ⟨-, -, rfl⟩ | ⟨-, rfl⟩ | ⟨-, rfl⟩ | ⟨b, -, rfl⟩ | ⟨-, -, rfl⟩ | ⟨-, rfl⟩ |
    ⟨-, -, rfl⟩ | ⟨-, -, -, -, rfl⟩ | ⟨-, -, -, -, rfl⟩ <;> simp

theorem exec_typeReg_cases : t.typeReg = s.typeReg ∨ i = .typeLoadStr := by
  rcases exec_cases h with ⟨e, -, -, rfl⟩ | ⟨-, -, rfl⟩ | ⟨-, rfl⟩ | ⟨-, rfl⟩ | ⟨b, -, rfl⟩ | ⟨-, -, rfl⟩ | ⟨hi, -⟩ |
    ⟨-, -, rfl⟩ | ⟨-, -, -, -, rfl⟩ | ⟨-, -, -, -, rfl⟩
  iterate 6 exact .inl rfl
  · exact .inr hi
  all_goals exact .inl rfl

theorem exec_crcRecords_cases : (t.crcStored = s.crcStored ∧ t.crcComputed = s.crcComputed) ∨ i = .chunkParse := by
  rcases exec_cases h with ⟨e, -, -, rfl⟩ | ⟨hi, -⟩ | ⟨-, rfl⟩ | ⟨-, rfl⟩ | ⟨b, -, rfl⟩ | ⟨-, -, rfl⟩ | ⟨-, rfl⟩ |
    ⟨-, -, rfl⟩ | ⟨hi, -⟩ | ⟨-, -, -, -, rfl⟩
  · exact .inl ⟨rfl, rfl⟩
  · exact .inr hi
  iterate 6 exact .inl ⟨rfl, rfl⟩
  · exact .inr hi
  · exact .inl ⟨rfl, rfl⟩

theorem exec_outLen_cases : t.outLen = s.outLen ∨ i = .chunkParse ∨ i = .chunkEmit := by
  rcases exec_cases h with ⟨e, -, -, rfl⟩ | ⟨-, -, rfl⟩ | ⟨-, rfl⟩ | ⟨-, rfl⟩ | ⟨b, -, rfl⟩ | ⟨-, -, rfl⟩ | ⟨-, rfl⟩ |
    ⟨-, -, rfl⟩ | ⟨hi, -⟩ | ⟨hi, -⟩
  iterate 8 exact .inl rfl
  · exact .inr (.inl hi)
  · exact .inr (.inr hi)

/-- A command leaves BUF, or it is CHUNK_EMIT and leaves what storing its frame at DST_OFF leaves. -/
theorem exec_bufByte_cases (a : Nat) : bufByte t a = bufByte s a ∨
    (i = .chunkEmit ∧ bufByte t a = bufByte (bufWrite s.dstOff.toNat (emitFrame s) s) a) := by
  rcases exec_cases h with ⟨e, -, -, rfl⟩ | ⟨-, -, rfl⟩ | ⟨-, rfl⟩ | ⟨-, rfl⟩ | ⟨b, -, rfl⟩ | ⟨-, -, rfl⟩ | ⟨-, rfl⟩ |
    ⟨-, -, rfl⟩ | ⟨-, -, -, -, rfl⟩ | ⟨hi, -, -, -, rfl⟩
  iterate 9 exact .inl rfl
  · exact .inr ⟨hi, rfl⟩

/-- No command writes a byte outside the frame at DST_OFF (10_state.md R45). -/
theorem exec_bufByte_outside {a : Nat} (ha : a < s.dstOff.toNat ∨ s.dstOff.toNat + 12 + s.chLen.toNat ≤ a) :
    bufByte t a = bufByte s a := by
  rcases exec_bufByte_cases h a with hb | ⟨-, hb⟩
  · exact hb
  · rw [hb, bufByte_bufWrite_outside]
    rwa [emitFrame_length, ← Nat.add_assoc]

end Frame

/-- Settles O55: each register is left unless the command is one of those that write it, and BUF is left outside the
frame of CHUNK_EMIT. -/
theorem eachCommandWritesOnlyItsOutputs : Obligations.EachCommandWritesOnlyItsOutputs := by
  intro i s t h
  refine ⟨exec_keeps_inputs h, fun h1 h2 h3 => ?_, (exec_typeReg_cases h).resolve_right, fun h1 h2 => ?_,
    (exec_crcRecords_cases h).resolve_right, fun h1 h2 => ?_, fun hi a => ?_, fun a => exec_bufByte_outside h⟩
  · exact (exec_crcState_cases h).resolve_right (by simp [h1, h2, h3])
  · exact (State.descriptor_eq_iff s t).mp ((exec_descriptor_cases h).resolve_right (by simp [h1, h2]))
  · exact (exec_outLen_cases h).resolve_right (by simp [h1, h2])
  · exact (exec_bufByte_cases h a).resolve_right fun hemit => hi hemit.1

end Sys2Proof.Machine
end

section
/-! PROOFS of the command cycle family (40_command_cycle.md R130 to R142): acceptance and overrun, stalls, the completion
and what can happen before it, the end of a run, host reads and writes of the register window, and NOP. -/

namespace Sys2Proof.Machine

/-! ### Acceptance and overrun of a CMD write -/

/-- Settles O6: the write is accepted, and DONE, which it clears, gates IRQ. -/
theorem cmdWriteWhenIdleIsAccepted : Obligations.CmdWriteWhenIdleIsAccepted := by
  intro s w rest hidle hst hin
  exact ⟨_, step_cmdWrite_idle hidle hst hin, rfl, by simp [irq], by simp [statusWord], by simp [statusWord]⟩

/-- Settles O7: CMD is no operand register, so the write is performed at once, and a busy core drops it. -/
theorem cmdWriteWhileBusyOnlySetsOverrun : Obligations.CmdWriteWhileBusyOnlySetsOverrun := by
  intro s w rest hb hst hin
  have hwrite : writeWindow 0x04 w { s with inbox := rest } = { s with ovr := true, inbox := rest } :=
    writeCmd_busy w { s with inbox := rest } hb
  rw [step_registerWrite hst hin (by decide) (by decide) (by decide), hwrite]
  rfl

/-! ### Which step is the completion -/

theorem completionStep_of_command {s : State} {i : Instr} (h : decode s.cmd = .ok i) : completionStep s = exec i s := by
  simp [completionStep, h]

theorem step_coreTurn_idle {s : State} {rest : List Event} (hb : s.busy = false) (hin : s.inbox = .coreTurn :: rest) :
    step s = .next { s with inbox := rest } := by
  simp [step, hin, coreTurn, hb]

section Busy

variable {s : State} (hb : s.busy = true)
include hb

theorem step_coreTurn_busy {rest : List Event} (hin : s.inbox = .coreTurn :: rest) :
    step s = completionStep { s with inbox := rest } := by
  simp [step, hin, coreTurn, hb]

theorem step_busy_of_nil (hin : s.inbox = []) : step s = completionStep s := by
  simp [step, hin, owedStep, hb]

theorem step_busy_of_stalled {a b : HostAccess} {rest : List Event} (hin : s.inbox = .access a :: rest)
    (hst : s.stalled = some b) : step s = completionStep s := by
  simp [step, hin, hostTurn, hst, owedStep, hb]

end Busy

/-- Settles O5: in the three cases the step is the completion step, which is the command in CMD or the completion of an
illegal word. -/
theorem stepRunsTheDecodedCommand : Obligations.StepRunsTheDecodedCommand := by
  constructor
  · intro s i hb hi
    exact ⟨fun rest hin => (step_coreTurn_busy hb hin).trans (completionStep_of_command hi),
      fun hin => (step_busy_of_nil hb hin).trans (completionStep_of_command hi),
      fun a rest b hin hst => (step_busy_of_stalled hb hin hst).trans (completionStep_of_command hi)⟩
  · intro s hb hno
    exact ⟨fun rest hin => (step_coreTurn_busy hb hin).trans (completionStep_of_no_command hno),
      fun hin => (step_busy_of_nil hb hin).trans (completionStep_of_no_command hno),
      fun a rest b hin hst => (step_busy_of_stalled hb hin hst).trans (completionStep_of_no_command hno)⟩

/-! ### What a completion writes to STATUS -/

/-- The status bits of a completion (40_command_cycle.md R133). -/
theorem exec_status {i : Instr} {s t : State} (h : exec i s = .next t) :
    t.busy = false ∧ t.done = true ∧ (t.err = true ↔ t.errCode ≠ .ok) := by
  rcases exec_cases h with ⟨e, hok, -, rfl⟩ | ⟨-, -, rfl⟩ | ⟨-, rfl⟩ | ⟨-, rfl⟩ | ⟨b, -, rfl⟩ | ⟨-, -, rfl⟩ | ⟨-, rfl⟩ |
    ⟨-, -, rfl⟩ | ⟨-, -, -, -, rfl⟩ | ⟨-, -, -, -, rfl⟩
  · simp [hok]
  all_goals simp

theorem completionStep_status {s t : State} (h : completionStep s = .next t) :
    t.busy = false ∧ t.done = true ∧ (t.err = true ↔ t.errCode ≠ .ok) := by
  rcases completionStep_cases h with ⟨i, -, hx⟩ | ⟨-, rfl⟩
  · exact exec_status hx
  · simp

/-- A completion keeps OVR and the stalled access (40_command_cycle.md R133, R136). -/
theorem completionStep_keeps_ovr_stalled {s t : State} (h : completionStep s = .next t) :
    t.ovr = s.ovr ∧ t.stalled = s.stalled := by
  rcases completionStep_cases h with ⟨i, -, hx⟩ | ⟨-, rfl⟩
  · obtain ⟨-, -, -, hovr, -, -, -, -, -, hst, -, -⟩ := exec_keeps_inputs hx
    exact ⟨hovr, hst⟩
  · exact ⟨rfl, rfl⟩

/-- Settles O9: a turn of the idle core does nothing, and a turn of the busy core is the completion step. -/
theorem completionTakesTheOutcomeOfCmd : Obligations.CompletionTakesTheOutcomeOfCmd := by
  intro s rest hin
  refine ⟨fun hb => step_coreTurn_idle hb hin, fun hb => ?_⟩
  rw [step_coreTurn_busy hb hin]
  refine ⟨fun i hi => completionStep_of_command hi, fun hno => completionStep_of_no_command hno, fun t ht => ?_⟩
  obtain ⟨hbusy, hdone, herr⟩ := completionStep_status ht
  exact ⟨hbusy, hdone, herr, (completionStep_keeps_ovr_stalled ht).1⟩

/-! ### Stalls -/

theorem step_access_stalls {s : State} {a : HostAccess} {rest : List Event} (hst : s.stalled = none)
    (hin : s.inbox = .access a :: rest) (hs : stallsNow s a = true) :
    step s = .next { s with stalled := some a, inbox := rest } := by
  simp [step, hin, hostTurn, hst, hs]

theorem stallsNow_iff (s : State) (a : HostAccess) :
    stallsNow s a = true ↔ s.busy = true ∧ stallable s.cfg a = true := by
  simp [stallsNow]

/-- Once the core is idle, the stalled access is performed when the environment owes nothing or the host waits. -/
theorem step_idle_of_stalled {s : State} {a : HostAccess} (hst : s.stalled = some a) (hb : s.busy = false)
    (hin : s.inbox = [] ∨ ∃ b rest, s.inbox = .access b :: rest) : step s = .next (performStalled a s) := by
  rcases hin with hin | ⟨b, rest, hin⟩
  · simp [step, hin, owedStep, hb, hst]
  · simp [step, hin, hostTurn, owedStep, hb, hst]

/-- While the core is busy and an access is stalled, a step that is no reset is the completion. -/
theorem completionStep_of_step_stalled {s t : State} {a : HostAccess} (hst : s.stalled = some a) (hb : s.busy = true)
    (hr : ∀ rest, s.inbox ≠ .reset :: rest) (h : step s = .next t) :
    ∃ inbox, completionStep { s with inbox := inbox } = .next t := by
  rcases step_cases h with ⟨inbox, -, -, hc⟩ | ⟨b, hidle, -⟩ | ⟨inbox, hidle, -⟩ | ⟨rest, hin, -⟩ | ⟨b, rest, -, hno, -⟩ |
    ⟨b, rest, -, hno, -⟩
  · exact ⟨inbox, hc⟩
  · simp [hb] at hidle
  · simp [hb] at hidle
  · exact absurd hin (hr rest)
  all_goals simp [hst] at hno

/-- Settles O8: the accesses named are the stallable ones; with an access stalled the step is the completion while the
core is busy, and performs the access once it is idle. -/
theorem accessesStallExactlyWhileBusy : Obligations.AccessesStallExactlyWhileBusy := by
  refine ⟨?_, fun s a hst hb hin => step_idle_of_stalled hst hb hin, fun s t a hst hb hr h => ?_⟩
  · intro s a rest hst hin wide operandWrite bufferAccess
    have hk : stallable s.cfg a = true ↔ operandWrite ∨ bufferAccess := stallable_iff s.cfg a
    refine ⟨fun hb hkind => step_access_stalls hst hin ((stallsNow_iff s a).mpr ⟨hb, hk.mpr hkind⟩), fun hno => ?_⟩
    refine step_access hst hin (Bool.eq_false_iff.mpr fun hs => ?_)
    obtain ⟨hb, hkind⟩ := (stallsNow_iff s a).mp hs
    rcases hno with hidle | hno
    · simp [hb] at hidle
    · exact hno (hk.mp hkind)
  · obtain ⟨inbox, hc⟩ := completionStep_of_step_stalled hst hb hr h
    exact ⟨(completionStep_status hc).1, (completionStep_keeps_ovr_stalled hc).2.trans hst⟩

/-! ### What can happen before the completion -/

/-- A write of a busy core's register window, outside the six operand registers, changes at most DONE, OVR and IE. -/
theorem writeWindow_of_busy {s : State} {o : Nat} (hb : s.busy = true) (ho : o ∉ [0x10, 0x18, 0x1C, 0x20, 0x24, 0x28])
    (v : Word) : ∃ done ovr ie, writeWindow o v s = { s with done := done, ovr := ovr, ie := ie } := by
  rcases writeWindow_cases o v s with e | ⟨-, e⟩ | ⟨-, e⟩ | ⟨-, e⟩ | ⟨rfl, -⟩ | ⟨rfl, -⟩ | ⟨rfl, -⟩ | ⟨rfl, -⟩ |
    ⟨rfl, -⟩ | ⟨rfl, -⟩
  · exact ⟨s.done, s.ovr, s.ie, e⟩
  · exact ⟨s.done, true, s.ie, e.trans (writeCmd_busy v s hb)⟩
  · exact ⟨_, _, s.ie, e⟩
  · exact ⟨s.done, s.ovr, _, e⟩
  all_goals exact absurd (by decide) ho

theorem stallable_operandWrite {c : Config} {o : Nat} {v : Word} (ho : o ∈ [0x10, 0x18, 0x1C, 0x20, 0x24, 0x28]) :
    stallable c ⟨.registers, o, 32, .write v⟩ = true := by
  have halign : o % 4 = 0 := (by decide : ∀ o ∈ [0x10, 0x18, 0x1C, 0x20, 0x24, 0x28], o % 4 = 0) o ho
  exact (stallable_iff c _).mpr (.inl ⟨rfl, ⟨rfl, halign⟩, ⟨v, rfl⟩, ho⟩)

theorem stallable_buffer {c : Config} {a : HostAccess} (hw : a.window = .buffer) (hadm : admissible c a = true) :
    stallable c a = true := by
  simp [stallable, hadm, hw]

/-- An access that a busy core performs changes at most DONE, OVR, IE and the replies (40_command_cycle.md R136). -/
theorem performAccess_of_busy {s : State} {a : HostAccess} (hb : s.busy = true) (hns : stallsNow s a = false) :
    ∃ done ovr ie replies, performAccess a s = { s with done := done, ovr := ovr, ie := ie, replies := replies } := by
  have hk : stallable s.cfg a = false := by simpa [stallsNow, hb] using hns
  rcases performAccess_cases a s with ⟨r, e⟩ | ⟨v, ha, -, e⟩ | ⟨v, hw, -, hadm, -⟩
  · exact ⟨s.done, s.ovr, s.ie, _, e⟩
  · have ho : a.offset ∉ [0x10, 0x18, 0x1C, 0x20, 0x24, 0x28] := fun ho => by
      rw [ha, stallable_operandWrite ho] at hk
      cases hk
    obtain ⟨done, ovr, ie, hw⟩ := writeWindow_of_busy hb ho v
    exact ⟨done, ovr, ie, _, e.trans (congrArg (reply .accepted) hw)⟩
  · rw [stallable_buffer hw hadm] at hk
    cases hk

/-- A step of a busy core ends the command, or it takes one entry of the inbox and changes at most DONE, OVR, IE, the
stalled access and the replies. -/
theorem step_busy_cases {s t : State} (hb : s.busy = true) (h : step s = .next t) :
    t.busy = false ∨ ∃ e done ovr ie stalled replies, s.inbox = e :: t.inbox ∧
      t = { s with done := done, ovr := ovr, ie := ie, stalled := stalled, inbox := t.inbox, replies := replies } := by
  rcases step_cases h with ⟨inbox, -, -, hc⟩ | ⟨a, hidle, -⟩ | ⟨inbox, hidle, -⟩ | ⟨rest, -, rfl⟩ |
    ⟨a, rest, hin, -, -, rfl⟩ | ⟨a, rest, hin, -, hns, rfl⟩
  · exact .inl (completionStep_status hc).1
  · simp [hb] at hidle
  · simp [hb] at hidle
  · exact .inl rfl
  · exact .inr ⟨_, _, _, _, _, _, hin, rfl⟩
  · obtain ⟨done, ovr, ie, replies, e⟩ := performAccess_of_busy (s := { s with inbox := rest }) hb hns
    rw [e]
    exact .inr ⟨_, _, _, _, _, _, hin, rfl⟩

/-- Settles O10: a step that leaves the core busy writes none of what a command uses. -/
theorem nothingACommandUsesChangesBeforeCompletion : Obligations.NothingACommandUsesChangesBeforeCompletion := by
  intro s t hb h hb'
  rcases step_busy_cases hb h with hidle | ⟨e, done, ovr, ie, stalled, replies, -, ht⟩
  · simp [hb'] at hidle
  · rw [ht]
    exact ⟨rfl, rfl, rfl, rfl, rfl, rfl, rfl, rfl, rfl, rfl, rfl, rfl, rfl, rfl, rfl, rfl, rfl, fun _ => rfl⟩

/-! ### The completion comes -/

/-- In a good state every command answers a next state: a valid descriptor's payload lies inside BUF (10_state.md R41). -/
theorem exec_answers {s : State} (h : s.Inv) (i : Instr) : ∃ t, exec i s = .next t := by
  cases i with
  | nop | crcInit | crcByte => exact ⟨_, rfl⟩
  | crcBuf | typeLoadStr | chunkNew | chunkParse =>
    simp only [exec, execCrcBuf, execTypeLoadStr, execChunkNew, execChunkParse]
    split_ifs <;> exact ⟨_, rfl⟩
  | chunkEmit =>
    show ∃ t, execChunkEmit s = .next t
    cases hv : s.chValid with
    | true => exact execChunkEmit_answers s (h.payload_inside hv)
    | false => exact ⟨raise .noChunk s, by simp [execChunkEmit, hv]⟩

theorem completionStep_answers {s : State} (h : s.Inv) : ∃ t, completionStep s = .next t := by
  unfold completionStep
  split
  · exact exec_answers h _
  · exact ⟨_, rfl⟩

theorem owedStep_answers {s : State} (h : s.Inv) : ∃ t, owedStep s = .next t := by
  unfold owedStep
  split
  · exact completionStep_answers h
  · split <;> exact ⟨_, rfl⟩

/-- In a good state every step answers a next state. -/
theorem step_answers {s : State} (h : s.Inv) : ∃ t, step s = .next t := by
  unfold step
  split
  · exact owedStep_answers h
  · next rest _ =>
    unfold coreTurn
    split
    · exact completionStep_answers (s := { s with inbox := rest }) { h with }
    · exact ⟨_, rfl⟩
  · exact ⟨_, rfl⟩
  · unfold hostTurn
    split
    · exact owedStep_answers h
    · split <;> exact ⟨_, rfl⟩

/-- A run goes on from the state its first step answers. -/
theorem run_succ_of_step {M : Host.Core} {s t : M.State} (h : M.step s = .next t) (k : Nat) :
    M.run (k + 1) s = M.run k t := by
  simp [Host.Core.run, h]

/-- Settles O11, by induction on the length of the inbox: a step of a busy core ends the command or takes an entry. -/
theorem busyCoreCompletesWithinTheInbox : Obligations.BusyCoreCompletesWithinTheInbox := by
  intro s hinv hb
  induction hn : s.inbox.length using Nat.strong_induction_on generalizing s with
  | h n ih =>
    obtain ⟨t, ht⟩ := step_answers hinv
    have hrun (k : Nat) : Host.Core.run core (k + 1) s = Host.Core.run core k t := run_succ_of_step ht k
    rcases step_busy_cases hb ht with hidle | ⟨e, done, ovr, ie, stalled, replies, hin, hrest⟩
    · exact ⟨1, by omega, t, hrun 0, hidle⟩
    · have hlen : t.inbox.length + 1 = n := by rw [← hn, hin, List.length_cons]
      have hb' : t.busy = true := by rw [hrest]; exact hb
      obtain ⟨k, hk, u, hu, hidle⟩ := ih t.inbox.length (by omega) t (stepKeepsTheInvariant s t hinv ht) hb' rfl
      exact ⟨k + 1, by omega, u, (hrun k).trans hu, hidle⟩

/-! ### The end of a run -/

theorem runOver_iff (s : State) : s.runOver = true ↔
    (∀ e ∈ s.inbox, isHostAccess e = false) ∧ s.busy = false ∧ s.stalled = none := by
  simp [State.runOver, State.quiescent, and_assoc]

/-- Settles O16: with no access left and none stalled, the inbox holds turns of the idle core and resets. -/
theorem runThatIsOverStaysOver : Obligations.RunThatIsOverStaysOver := by
  intro s h
  obtain ⟨hno, hb, hst⟩ := (runOver_iff s).mp h
  rcases hin : s.inbox with _ | ⟨e, rest⟩
  · exact ⟨s, by simp [step, hin, owedStep, hb, hst], h, .inl rfl⟩
  · have hrest : ∀ e ∈ rest, isHostAccess e = false := fun e he => hno e (hin ▸ List.mem_cons_of_mem _ he)
    cases e with
    | access a => exact absurd (hno (.access a) (by simp [hin])) nofun
    | coreTurn => exact ⟨_, step_coreTurn_idle hb hin, (runOver_iff _).mpr ⟨hrest, hb, hst⟩, .inl rfl⟩
    | reset =>
      exact ⟨resetCore { s with inbox := rest }, by simp [step, hin], (runOver_iff _).mpr ⟨hrest, rfl, rfl⟩,
        .inr ⟨rest, rfl⟩⟩

/-! ### Host reads of the register window -/

section RegisterAccess

variable {o : Nat} (halign : o % 4 = 0) (hwin : o + 4 ≤ 256) (s : State)
include halign hwin

theorem performAccess_registerRead : performAccess ⟨.registers, o, 32, .read⟩ s = reply (.data (readWindow s o)) s := by
  have hadm : admissible s.cfg ⟨.registers, o, 32, .read⟩ = true :=
    (admissible_iff _ _).mpr (.inl ⟨rfl, rfl, halign, hwin⟩)
  simp [performAccess, hadm]

theorem performAccess_registerWrite (v : Word) :
    performAccess ⟨.registers, o, 32, .write v⟩ s = reply .accepted (writeWindow o v s) := by
  have hadm : admissible s.cfg ⟨.registers, o, 32, .write v⟩ = true :=
    (admissible_iff _ _).mpr (.inl ⟨rfl, rfl, halign, hwin⟩)
  simp [performAccess, hadm]

end RegisterAccess

theorem flagAt_zero_eq_ite (b : Bool) : flagAt 0 b = if b then 1#32 else 0#32 := by
  cases b <;> rfl

/-- The registers of the window end at 0x4C (10_state.md R22, R43). -/
theorem offset_le_of_regAt {o : Nat} {r : Reg} (h : regAt o = some r) : o ≤ 0x4C := by
  unfold regAt at h
  split at h <;> simp at h ⊢

theorem readWindow_reserved {o : Nat} (h : 0x50 ≤ o) (s : State) : readWindow s o = 0#32 := by
  have hnone : regAt o = none := Option.eq_none_iff_forall_ne_some.mpr fun r hr => by
    have hle := offset_le_of_regAt hr
    omega
  simp [readWindow, hnone]

/-- A word whose bits are 0 under a mask is 0 there. -/
theorem and_eq_zero_of_bits {w m : Word} (h : ∀ k < 32, m.getLsbD k = true → w.getLsbD k = false) : w &&& m = 0#32 := by
  apply BitVec.eq_of_getLsbD_eq
  intro k hk
  cases hm : m.getLsbD k with
  | true => simp [hm, h k hk hm]
  | false => simp [hm]

/-- The reserved bits of STATUS are 0 (10_state.md R25). -/
theorem statusWord_reserved (s : State) : statusWord s &&& 0xFFFF00F0#32 = 0#32 := by
  apply and_eq_zero_of_bits
  intro k hk hm
  have hpos : (4 ≤ k ∧ k < 8) ∨ 16 ≤ k := by revert k; decide
  rw [statusWord_getLsbD s k hk]
  rcases hpos with ⟨h4, h8⟩ | h16
  · simp [h8, show k ≠ 0 by omega, show k ≠ 1 by omega, show k ≠ 2 by omega, show k ≠ 3 by omega]
  · simp [show k ≠ 0 by omega, show k ≠ 1 by omega, show k ≠ 2 by omega, show k ≠ 3 by omega,
      BitVec.getLsbD_of_ge s.errCode.code (k - 8) (by omega)]

/-- The reserved bits of TYPE_FLAGS are 0 (10_state.md R33). -/
theorem typeFlags_reserved (s : State) : typeFlags s &&& 0xFFFCC0C0#32 = 0#32 := by
  apply and_eq_zero_of_bits
  intro k hk hm
  have hpos : (6 ≤ k ∧ k < 8) ∨ (14 ≤ k ∧ k < 16) ∨ 18 ≤ k := by revert k; decide
  rcases hpos with ⟨h6, h8⟩ | ⟨h14, h16⟩ | h18
  · rw [typeFlags_type_bits s h8, typeProperties_getLsbD_of_ge _ h6]
  · obtain ⟨j, rfl⟩ := Nat.exists_eq_add_of_le (show 8 ≤ k by omega)
    rw [typeFlags_chType_bits s (by omega), typeProperties_getLsbD_of_ge _ (by omega)]
  · exact typeFlags_getLsbD_of_ge s h18

/-- Settles O20: a read of an aligned offset only replies with what the window holds there. -/
theorem hostReadReturnsTheRegister : Obligations.HostReadReturnsTheRegister := by
  intro s
  refine ⟨fun p hp => ?_, fun o hlo hhi halign => ?_, statusWord_reserved s, typeFlags_reserved s⟩
  · obtain ⟨halign, hwin, hval⟩ : p.1 % 4 = 0 ∧ p.1 + 4 ≤ 256 ∧ readWindow s p.1 = p.2 := by
      revert p
      simp [readWindow, regAt, readReg, idValue, crcResult, flagAt_zero_eq_ite]
    rw [performAccess_registerRead halign hwin, hval]
    rfl
  · rw [performAccess_registerRead halign (by omega), readWindow_reserved hlo]
    rfl

/-! ### Host writes of the register window -/

/-- Settles O22: a write of an aligned offset is accepted, and changes what the register map has there. -/
theorem hostWriteStoresItsRegister : Obligations.HostWriteStoresItsRegister := by
  intro s v o halign hwin after r
  have hafter : after = reply .accepted (writeWindow o v s) := performAccess_registerWrite halign hwin s v
  clear_value after
  subst hafter
  refine ⟨?_, ?_, ?_, ?_, ?_, ?_, ?_, ?_, ?_, ?_, ?_⟩
  · rintro rfl hb
    exact congrArg (reply .accepted) (writeCmd_idle v s hb)
  · rintro rfl hb
    exact congrArg (reply .accepted) (writeCmd_busy v s hb)
  iterate 8 rintro rfl; rfl
  · intro ho
    rw [writeWindow_of_not_writable ho]
    rfl

/-! ### NOP -/

theorem eq_nop_of_opcode {i : Instr} (h : i.opcode = 0x00#8) : i = .nop := by
  cases i <;> simp [Instr.opcode] at h ⊢

/-- Settles O29: NOP is the one command with OPC = 0x00, and a word that decodes is the encoding of its command. -/
theorem nopOnlyCompletes : Obligations.NopOnlyCompletes := by
  have hnop : encode .nop = 0x00000000#32 := by decide
  refine ⟨fun w => ?_, fun w hopc hne => ?_, fun s => rfl⟩
  · rw [decode_eq_ok_iff_encode, hnop, eq_comm]
  · cases hw : decode w with
    | error e => exact ⟨e, rfl⟩
    | ok i =>
      rw [decode_eq_ok_iff_encode] at hw
      subst hw
      rw [encode_toNat_mod] at hopc
      rw [eq_nop_of_opcode (BitVec.eq_of_toNat_eq hopc)] at hne
      exact absurd hnop hne

end Sys2Proof.Machine
end

section
/-! PROOFS of the CRC family (41_crc.md R150 to R157): the algebra of the byte step, the three CRC commands, and the
commands that leave CRC_STATE alone. -/

namespace Sys2Proof.Machine

/-! ### The round is linear and injective -/

theorem crcRound_of_low_clear {c : Word} (h : c.getLsbD 0 = false) : crcRound c = c >>> 1 :=
  if_neg (Bool.eq_false_iff.mp h)

theorem crcRound_of_low_set {c : Word} (h : c.getLsbD 0 = true) : crcRound c = (c >>> 1) ^^^ crcPoly :=
  if_pos h

/-- A round is linear: the polynomial enters once for each lowest bit that is set, and twice is not at all. -/
theorem crcRound_xor (c d : Word) : crcRound (c ^^^ d) = crcRound c ^^^ crcRound d := by
  have hlow : (c ^^^ d).getLsbD 0 = (c.getLsbD 0 ^^ d.getLsbD 0) := BitVec.getLsbD_xor
  cases hc : c.getLsbD 0 <;> cases hd : d.getLsbD 0 <;> rw [hc, hd] at hlow
  · rw [crcRound_of_low_clear hlow, crcRound_of_low_clear hc, crcRound_of_low_clear hd, BitVec.ushiftRight_xor_distrib]
  · rw [crcRound_of_low_set hlow, crcRound_of_low_clear hc, crcRound_of_low_set hd, BitVec.ushiftRight_xor_distrib,
      BitVec.xor_assoc]
  · rw [crcRound_of_low_set hlow, crcRound_of_low_set hc, crcRound_of_low_clear hd, BitVec.ushiftRight_xor_distrib]
    ac_rfl
  · rw [crcRound_of_low_clear hlow, crcRound_of_low_set hc, crcRound_of_low_set hd, BitVec.ushiftRight_xor_distrib]
    calc c >>> 1 ^^^ d >>> 1
      _ = c >>> 1 ^^^ d >>> 1 ^^^ (crcPoly ^^^ crcPoly) := by simp
      _ = c >>> 1 ^^^ crcPoly ^^^ (d >>> 1 ^^^ crcPoly) := by ac_rfl

theorem crcRounds_xor (n : Nat) (c d : Word) : crcRounds n (c ^^^ d) = crcRounds n c ^^^ crcRounds n d := by
  induction n generalizing c d with
  | zero => rfl
  | succ n ih => rw [crcRounds, crcRound_xor, ih, crcRounds, crcRounds]

/-- Rounds on a register whose low bits are 0 only shift them out. -/
theorem crcRounds_of_low_clear (n : Nat) {c : Word} (h : ∀ k < n, c.getLsbD k = false) : crcRounds n c = c >>> n := by
  induction n generalizing c with
  | zero => simp [crcRounds]
  | succ n ih =>
    have hshift : ∀ k < n, (c >>> 1).getLsbD k = false := fun k hk => by
      rw [BitVec.getLsbD_ushiftRight, h (1 + k) (by omega)]
    rw [crcRounds, crcRound_of_low_clear (h 0 (by omega)), ih hshift, ← BitVec.shiftRight_add, Nat.add_comm]

/-- Bit 31 of a round is the bit that it shifted out, since the polynomial has that bit set. -/
theorem crcRound_top (c : Word) : (crcRound c).getLsbD 31 = c.getLsbD 0 := by
  cases hc : c.getLsbD 0
  · simp [crcRound_of_low_clear hc]
  · simp [crcRound_of_low_set hc, crcPoly]

theorem eq_zero_of_crcRound_eq_zero {c : Word} (h : crcRound c = 0#32) : c = 0#32 := by
  have hlow : c.getLsbD 0 = false := by rw [← crcRound_top, h, BitVec.getLsbD_zero]
  rw [crcRound_of_low_clear hlow] at h
  have hhalf : c.toNat / 2 ^ 1 = 0 := by
    rw [← Nat.shiftRight_eq_div_pow, ← BitVec.toNat_ushiftRight, h, BitVec.toNat_zero]
  have hmod : c.toNat / 2 ^ 0 % 2 = 0 := (getLsbD_eq_false_iff c 0).mp hlow
  exact BitVec.eq_of_toNat_eq (by rw [BitVec.toNat_zero]; omega)

theorem crcRound_injective : Function.Injective crcRound := by
  intro c d h
  have hzero : crcRound (c ^^^ d) = 0#32 := by rw [crcRound_xor, h, BitVec.xor_self]
  exact BitVec.xor_eq_zero_iff.mp (eq_zero_of_crcRound_eq_zero hzero)

theorem crcRounds_injective (n : Nat) : Function.Injective (crcRounds n) := by
  induction n with
  | zero => exact Function.injective_id
  | succ n ih => exact ih.comp crcRound_injective

/-! ### The byte step -/

/-- A register XORed with a byte: the bits of the byte step's table index, and the bits above, which the eight rounds
only shift down. -/
theorem xor_byte_split (c : Word) (b : Byte) :
    c ^^^ b.setWidth 32 = (c.setWidth 8 ^^^ b).setWidth 32 ^^^ (c >>> 8 <<< 8) := by
  ext k hk
  by_cases h : k < 8
  · simp [h, BitVec.getLsbD_eq_getElem hk]
  · simp [h, show 8 + (k - 8) = k by omega, BitVec.getLsbD_eq_getElem hk, Bool.xor_comm]

theorem shiftRight_shiftLeft_shiftRight (c : Word) (n : Nat) : c >>> n <<< n >>> n = c >>> n := by
  ext k hk
  simpa using BitVec.lt_of_getLsbD

/-- Settles O34: the rounds are linear, and the bits of the register above the table index are only shifted. -/
theorem tableDrivenByteStepAgrees : Obligations.TableDrivenByteStepAgrees := by
  intro c b
  have hlow : ∀ k < 8, (c >>> 8 <<< 8).getLsbD k = false := fun k hk => by simp [hk]
  rw [crcStep, xor_byte_split, crcRounds_xor, crcRounds_of_low_clear 8 hlow, shiftRight_shiftLeft_shiftRight, crcStep,
    BitVec.zero_xor]

/-- Two register values differ after a byte if they differed before. -/
theorem crcStep_injective_left (b : Byte) : Function.Injective (crcStep · b) :=
  fun _ _ h => (BitVec.xor_left_inj _).mp (crcRounds_injective 8 h)

/-- Two bytes fed to one register value leave different values. -/
theorem crcStep_injective_right (c : Word) : Function.Injective (crcStep c) := by
  intro a b h
  have hw : a.setWidth 32 = b.setWidth 32 := (BitVec.xor_right_inj _).mp (crcRounds_injective 8 h)
  simpa using congrArg (BitVec.setWidth 8) hw

theorem crcFold_injective (bs : List Byte) : Function.Injective (crcFold · bs) := by
  induction bs with
  | nil => exact Function.injective_id
  | cons b bs ih => exact ih.comp (crcStep_injective_left b)

/-- The CRC of a sequence tells the values of any one byte apart. -/
theorem crc32_byte_injective (xs ys : List Byte) : Function.Injective (fun b => crc32 (xs ++ b :: ys)) := by
  intro a b h
  have hfold : crcFold crcInitValue (xs ++ a :: ys) = crcFold crcInitValue (xs ++ b :: ys) :=
    (BitVec.xor_left_inj _).mp h
  rw [crcFold_append, crcFold_append] at hfold
  exact crcStep_injective_right _ (crcFold_injective ys hfold)

theorem byte_flip_ne (b : Byte) {j : Nat} (h : j < 8) : b ^^^ (1#8 <<< j) ≠ b := by
  intro heq
  have hbit := congrArg (·.getLsbD j) heq
  simp [h] at hbit

/-- Settles O35: a flipped bit is another byte, and the CRC tells the values of a byte apart. -/
theorem crcChangesWithEverySingleBit : Obligations.CrcChangesWithEverySingleBit :=
  fun xs ys b _ hj h => byte_flip_ne b hj (crc32_byte_injective xs ys h).symm

/-- Settles O33, by computing the three values. -/
theorem crcCheckValueAndResidue : Obligations.CrcCheckValueAndResidue :=
  ⟨rfl, by decide +kernel, by decide +kernel⟩

/-! ### CRC_INIT, CRC_BYTE and CRC_BUF -/

/-- Settles O30: a command's encoding is its one word, and from the initial value CRC_RESULT is the CRC of no bytes. -/
theorem crcInitSetsTheInitialValue : Obligations.CrcInitSetsTheInitialValue := by
  refine ⟨fun w => ?_, fun s => ⟨_, rfl, rfl, crcResult_of_fold _ [] rfl⟩⟩
  rw [decode_eq_ok_iff_encode, show encode .crcInit = 0x00000001#32 by decide, eq_comm]

/-- Settles O32, by the two outcomes of the range check. -/
theorem crcBufFoldsTheSourceRange : Obligations.CrcBufFoldsTheSourceRange := by
  refine ⟨fun w => ?_, fun s => ⟨fun hin => ?_, fun hout => ?_⟩⟩
  · rw [decode_eq_ok_iff_encode, show encode .crcBuf = 0x00000003#32 by decide, eq_comm]
  · exact exec_crc_feeds (.inl rfl) fun _ => (srcInBuf_iff s).mpr hin
  · have hrange : ¬srcInBuf s = true := fun h => absurd ((srcInBuf_iff s).mp h) (by omega)
    exact if_neg hrange

/-- The word of CRC_BYTE is `0x0000bb02` (41_crc.md R155). -/
theorem decode_eq_crcByte_iff (w : Word) (b : Byte) : decode w = .ok (.crcByte b) ↔ w.toNat = b.toNat * 256 + 2 := by
  rw [decode_eq_ok_iff_encode, ← BitVec.toNat_inj, encode_toNat, eq_comm]
  rfl

/-- A word that decodes has a reserved field of 0 (30_encoding.md R104). -/
theorem reserved_zero_of_decode {w : Word} {i : Instr} (h : decode w = .ok i) : w.toNat / 65536 = 0 := by
  rw [← cmdFields_rsvd_toNat, ((decode_eq_ok_iff w i).mp h).1]
  rfl

/-- Settles O31: a word with OPC = 0x02 is CRC_BYTE with the byte in bits 15:8, or its reserved field makes it no command
at all. -/
theorem crcByteFeedsItsImmediate : Obligations.CrcByteFeedsItsImmediate := by
  refine ⟨decode_eq_crcByte_iff, fun s b => rfl, fun s t rest hb hopc hin h => ?_, by decide, by decide⟩
  obtain ⟨hcommand, hillegal, -⟩ := (completionTakesTheOutcomeOfCmd s rest hin).2 hb
  refine ⟨fun hrsvd => ?_, fun hrsvd => ?_⟩
  · have hdec : decode s.cmd = .ok (.crcByte (BitVec.ofNat 8 (s.cmd.toNat / 256))) := by
      rw [decode_eq_crcByte_iff, BitVec.toNat_ofNat]
      omega
    cases (hcommand _ hdec).symm.trans h
    exact ⟨rfl, rfl⟩
  · cases (hillegal fun i hi => hrsvd (reserved_zero_of_decode hi)).symm.trans h
    exact ⟨rfl, rfl⟩

/-! ### What does not depend on CRC_STATE -/

/-- The state with another value of CRC_STATE. -/
def State.withCrcState (s : State) (c : Word) : State := { s with crcState := c }

section WithCrcState

variable (s : State) (c : Word)

@[simp] theorem withCrcState_bufRead (o n : Nat) : bufRead (s.withCrcState c) o n = bufRead s o n :=
  bufRead_congr s _ o o n fun _ _ => rfl

@[simp] theorem withCrcState_bufBe32 (o : Nat) : bufBe32 (s.withCrcState c) o = bufBe32 s o := rfl

@[simp] theorem withCrcState_srcInBuf : srcInBuf (s.withCrcState c) = srcInBuf s := rfl

@[simp] theorem withCrcState_srcBytes : srcBytes (s.withCrcState c) = srcBytes s :=
  withCrcState_bufRead s c _ _

@[simp] theorem withCrcState_parseLen : parseLen (s.withCrcState c) = parseLen s := rfl

@[simp] theorem withCrcState_parseStored : parseStored (s.withCrcState c) = parseStored s := rfl

@[simp] theorem withCrcState_parseComputed : parseComputed (s.withCrcState c) = parseComputed s :=
  congrArg crc32 (withCrcState_bufRead s c _ _)

@[simp] theorem withCrcState_emitFrame : emitFrame (s.withCrcState c) = emitFrame s :=
  congrArg (frame s.chLen s.chType · s.chCrc) (withCrcState_bufRead s c _ _)

@[simp] theorem withCrcState_recordCrcs : recordCrcs (s.withCrcState c) = (recordCrcs s).withCrcState c :=
  congrArg (fun w => { (recordCrcs s).withCrcState c with crcComputed := w }) (withCrcState_parseComputed s c)

@[simp] theorem withCrcState_takeFrame : takeFrame (s.withCrcState c) = (takeFrame s).withCrcState c :=
  congrArg (fun w => { (takeFrame s).withCrcState c with crcComputed := w }) (withCrcState_parseComputed s c)

end WithCrcState

/-- An outcome with its next state, if it has one, changed by `f`. -/
def mapNext (f : State → State) : Host.Outcome State Fault Refusal → Host.Outcome State Fault Refusal
  | .next t => .next (f t)
  | .fault r => .fault r
  | .refused r => .refused r

/-- The commands that neither read nor write CRC_STATE answer, from another value of it, what they answered with that
value in place (41_crc.md R152). -/
theorem exec_withCrcState {i : Instr} (hi : i ∈ [Instr.typeLoadStr, .chunkNew, .chunkParse, .chunkEmit]) (s : State)
    (c : Word) : exec i (s.withCrcState c) = mapNext (·.withCrcState c) (exec i s) := by
  have hcases : i = .typeLoadStr ∨ i = .chunkNew ∨ i = .chunkParse ∨ i = .chunkEmit := by simpa using hi
  rcases hcases with rfl | rfl | rfl | rfl
  · simp only [exec, execTypeLoadStr, apply_ite (mapNext _), withCrcState_srcInBuf, withCrcState_bufBe32]
    rfl
  · simp only [exec, execChunkNew, apply_ite (mapNext _), withCrcState_srcInBuf, withCrcState_srcBytes]
    rfl
  · simp only [exec, execChunkParse, apply_ite (mapNext _), withCrcState_srcInBuf, withCrcState_parseLen,
      withCrcState_parseComputed, withCrcState_parseStored, withCrcState_recordCrcs, withCrcState_takeFrame]
    rfl
  · simp only [exec, execChunkEmit, apply_ite (mapNext _), withCrcState_emitFrame]
    rfl

/-- Settles O38: none of the four commands writes CRC_STATE, and another value of it goes through each unread. -/
theorem chunkCommandsIgnoreCrcState : Obligations.ChunkCommandsIgnoreCrcState := by
  intro s t c i hi h
  refine ⟨(exec_crcState_cases h).resolve_right ?_, ?_⟩
  · rintro (rfl | ⟨b, rfl⟩ | rfl) <;> simp at hi
  · exact (exec_withCrcState hi s c).trans (congrArg (mapNext _) h)

/-! ### The bytes fed by a list of CRC commands -/

/-- The bytes that a command feeds are read from its source range, whatever STATUS and CRC_STATE are. -/
theorem bytesFed_succeeded_withCrcState (s : State) (c : Word) (i : Instr) :
    bytesFed (succeeded (s.withCrcState c)) i = bytesFed s i := by
  cases i with
  | crcBuf => exact bufRead_congr s _ _ _ _ fun _ _ => rfl
  | nop | crcInit | crcByte _ | typeLoadStr | chunkNew | chunkParse | chunkEmit => rfl

/-- A list of CRC_BYTE and CRC_BUF commands, completed after a successful completion, folds the bytes they feed into
CRC_STATE and does nothing else (41_crc.md R157). -/
theorem execAll_crc_feeds {cs : List Instr} {s : State} (hcs : ∀ i ∈ cs, i = .crcBuf ∨ ∃ b, i = .crcByte b)
    (hr : .crcBuf ∈ cs → srcInBuf s = true) (c : Word) :
    execAll cs (succeeded (s.withCrcState c)) =
      .next (succeeded (s.withCrcState (crcFold c (cs.flatMap (bytesFed s))))) := by
  induction cs generalizing c with
  | nil => rfl
  | cons i cs ih =>
    obtain ⟨hi, hcs⟩ := List.forall_mem_cons.mp hcs
    have hexec : exec i (succeeded (s.withCrcState c)) =
        .next (succeeded (s.withCrcState (crcFold c (bytesFed s i)))) := by
      have hfeeds := exec_crc_feeds (s := succeeded (s.withCrcState c)) hi fun h => hr (h ▸ List.mem_cons_self)
      rwa [bytesFed_succeeded_withCrcState] at hfeeds
    rw [execAll_cons_next hexec, ih hcs fun h => hr (List.mem_cons_of_mem i h), List.flatMap_cons, crcFold_append]

/-- Settles O36: CRC_INIT leaves the initial value, into which the list folds its bytes. -/
theorem crcResultIsTheCrcOfTheBytesFed : Obligations.CrcResultIsTheCrcOfTheBytesFed := by
  intro s cs hcs hr
  have hinit : exec .crcInit s = .next (succeeded (s.withCrcState crcInitValue)) := rfl
  have hlist := execAll_crc_feeds hcs (fun h => (srcInBuf_iff s).mpr (hr h)) crcInitValue
  exact ⟨_, (execAll_cons_next hinit).trans hlist, rfl, crcResult_of_fold _ _ rfl⟩

end Sys2Proof.Machine
end

section
/-! PROOFS of TYPE_LOAD_STR (42_chunk_type.md R180, R182): the letters test on the bytes of BUF, and the command's
outcome at each of its checks. -/

namespace Sys2Proof.Machine

/-! ### The letters of four bytes -/

theorem allLetters_iff_typeByte (t : Word) : allLetters t = true ↔ ∀ k < 4, isLetter (typeByte t k) = true := by
  simp only [allLetters, Bool.and_eq_true, Nat.forall_lt_succ_right, Nat.not_lt_zero, false_imp_iff, implies_true,
    true_and]

/-- all_letters of a word read from BUF tests the four bytes where they stand (R174, R180). -/
theorem allLetters_bufBe32_iff (s : State) (o : Nat) :
    allLetters (bufBe32 s o) = true ↔ ∀ k < 4, letterCode (bufByte s (o + k)).toNat := by
  rw [allLetters_iff_typeByte]
  refine forall₂_congr fun k hk => ?_
  rw [typeByte_bufBe32 s o k hk, isLetter_iff]

/-! ### The outcome at each check -/

section Outcome

variable {s : State}

theorem execTypeLoadStr_of_range_outside (hout : s.bufSize < s.srcOff.toNat + s.srcLen.toNat) :
    execTypeLoadStr s = .next (failedWith .range s) :=
  if_neg (mt (srcInBuf_iff s).mp (by omega))

/-- Once the source range lies in BUF, only the length and the letters decide. -/
theorem execTypeLoadStr_of_range_inside (hin : s.srcOff.toNat + s.srcLen.toNat ≤ s.bufSize) :
    execTypeLoadStr s =
      if s.srcLen.toNat < 4 then .next (failedWith .invalidChunkType s)
      else if allLetters (bufBe32 s s.srcOff.toNat) then
        .next (succeeded { s with typeReg := bufBe32 s s.srcOff.toNat })
      else .next (failedWith .invalidChunkType s) :=
  if_pos ((srcInBuf_iff s).mpr hin)

end Outcome

/-- Settles O40: the source range decides RANGE, then the length and the letters of the first four bytes decide between
INVALID_CHUNK_TYPE and the load. -/
theorem typeLoadStrOutcome : Obligations.TypeLoadStrOutcome := by
  refine ⟨fun w => ?_, fun s => ⟨execTypeLoadStr_of_range_outside, fun hin hshort => ?_, fun hin hlen hno => ?_,
    fun hin hlen hletters => ?_⟩⟩
  · rw [decode_eq_ok_iff_encode, show encode .typeLoadStr = 0x00000008#32 by decide, eq_comm]
  · exact (execTypeLoadStr_of_range_inside hin).trans (if_pos hshort)
  · have htest : ¬allLetters (bufBe32 s s.srcOff.toNat) = true := mt (allLetters_bufBe32_iff s _).mp hno
    exact (execTypeLoadStr_of_range_inside hin).trans ((if_neg (by omega)).trans (if_neg htest))
  · have htest : allLetters (bufBe32 s s.srcOff.toNat) = true := (allLetters_bufBe32_iff s _).mpr hletters
    rw [← bufBe32_eq_ofNat]
    exact (execTypeLoadStr_of_range_inside hin).trans ((if_neg (by omega)).trans (if_pos htest))

end Sys2Proof.Machine
end

section
/-! PROOFS of the chunk frame family (43_chunk_frame.md R190 to R213): the outcomes of CHUNK_NEW, CHUNK_PARSE and
CHUNK_EMIT, the frame that BUF holds, and the three commands one after another. -/

namespace Sys2Proof.Machine

theorem decode_eq_ok_iff_of_encode {i : Instr} {v : Word} (h : encode i = v) (w : Word) :
    decode w = .ok i ↔ w = v := by
  rw [decode_eq_ok_iff_encode, h, eq_comm]

/-! ### CHUNK_NEW -/

theorem execChunkNew_range {s : State} (hout : s.bufSize < s.srcOff.toNat + s.srcLen.toNat) :
    execChunkNew s = .next (failedWith .range s) :=
  if_neg (mt (srcInBuf_iff s).mp (by omega))

theorem execChunkNew_ok {s : State} (hin : s.srcOff.toNat + s.srcLen.toNat ≤ s.bufSize) :
    execChunkNew s = .next (succeeded
      (setDescriptor s.srcLen s.typeReg s.srcOff (crc32 (be32 s.typeReg ++ srcBytes s)) s)) :=
  if_pos ((srcInBuf_iff s).mpr hin)

/-- Settles O41, by the two outcomes of the range check. -/
theorem chunkNewOutcome : Obligations.ChunkNewOutcome :=
  ⟨decode_eq_ok_iff_of_encode (by decide), fun _ => ⟨execChunkNew_range, execChunkNew_ok⟩⟩

/-! ### The outcomes of CHUNK_PARSE -/

section ParseOutcome

variable {s : State}

theorem execChunkParse_range (hout : s.bufSize < s.srcOff.toNat + s.srcLen.toNat) :
    execChunkParse s = .next (failedWith .range s) :=
  if_neg (mt (srcInBuf_iff s).mp (by omega))

variable (hin : s.srcOff.toNat + s.srcLen.toNat ≤ s.bufSize)
include hin

theorem execChunkParse_tooShort (hlen : s.srcLen.toNat < 12) : execChunkParse s = .next (failedWith .tooShort s) :=
  (if_pos ((srcInBuf_iff s).mpr hin)).trans (if_pos hlen)

theorem execChunkParse_truncated (hlen : 12 ≤ s.srcLen.toNat) (hn : s.srcLen.toNat - 4 < (parseLen s).toNat + 8) :
    execChunkParse s = .next (failedWith .truncated s) :=
  (if_pos ((srcInBuf_iff s).mpr hin)).trans ((if_neg (by omega)).trans (if_pos hn))

/-- Once the source range holds the whole frame, only the two CRCs decide. -/
theorem execChunkParse_of_whole_frame (hn : (parseLen s).toNat + 12 ≤ s.srcLen.toNat) :
    execChunkParse s =
      if parseComputed s ≠ parseStored s then .next (failedWith .crcMismatch (recordCrcs s))
      else .next (succeeded (takeFrame s)) :=
  (if_pos ((srcInBuf_iff s).mpr hin)).trans ((if_neg (by omega)).trans (if_neg (by omega)))

theorem execChunkParse_crcMismatch (hn : (parseLen s).toNat + 12 ≤ s.srcLen.toNat)
    (hne : parseComputed s ≠ parseStored s) :
    execChunkParse s = .next (failedWith .crcMismatch (recordCrcs s)) :=
  (execChunkParse_of_whole_frame hin hn).trans (if_pos hne)

theorem execChunkParse_ok (hn : (parseLen s).toNat + 12 ≤ s.srcLen.toNat) (heq : parseComputed s = parseStored s) :
    execChunkParse s = .next (succeeded (takeFrame s)) :=
  (execChunkParse_of_whole_frame hin hn).trans (if_neg (not_ne_iff.mpr heq))

end ParseOutcome

/-! ### What CHUNK_PARSE stores, as numbers -/

@[simp] theorem parseLen_toNat (s : State) : (parseLen s).toNat = numberAt s s.srcOff.toNat :=
  bufBe32_toNat s _

theorem parseStored_eq_ofNat (s : State) :
    parseStored s = BitVec.ofNat 32 (numberAt s (s.srcOff.toNat + 8 + numberAt s s.srcOff.toNat)) := by
  rw [parseStored, parseLen_toNat, bufBe32_eq_ofNat]

theorem parseComputed_eq_crc32 (s : State) :
    parseComputed s = crc32 (bufRead s (s.srcOff.toNat + 4) (4 + numberAt s s.srcOff.toNat)) := by
  rw [parseComputed, parseLen_toNat]

theorem takeFrame_eq_numbers (s : State) :
    let o := s.srcOff.toNat
    let n := numberAt s o
    let stored := BitVec.ofNat 32 (numberAt s (o + 8 + n))
    takeFrame s =
      { s with crcStored := stored, crcComputed := crc32 (bufRead s (o + 4) (4 + n)), chLen := BitVec.ofNat 32 n,
               chType := BitVec.ofNat 32 (numberAt s (o + 4)), chPayloadOff := BitVec.ofNat 32 (o + 8),
               chCrc := stored, chValid := true, outLen := BitVec.ofNat 32 (12 + n) } := by
  simp only [takeFrame, setDescriptor, recordCrcs, parseStored_eq_ofNat, parseComputed_eq_crc32, parseLen,
    bufBe32_eq_ofNat, BitVec.ofNat_add, BitVec.ofNat_toNat, BitVec.setWidth_eq]

/-- Settles O42: the five outcomes, with what the last two store written as numbers. -/
theorem chunkParseOutcome : Obligations.ChunkParseOutcome := by
  refine ⟨decode_eq_ok_iff_of_encode (by decide), ?_⟩
  intro s o n stored computed
  have hlength : (parseLen s).toNat = n := parseLen_toNat s
  have hstored : parseStored s = stored := parseStored_eq_ofNat s
  have hcomputed : parseComputed s = computed := parseComputed_eq_crc32 s
  refine ⟨execChunkParse_range, execChunkParse_tooShort, fun hin hlen hn => ?_, fun hin hlen hn hne => ?_,
    fun hin hlen hn heq => ?_⟩
  · exact execChunkParse_truncated hin hlen (by omega)
  · have hparse := execChunkParse_crcMismatch hin (by omega) (by rwa [hcomputed, hstored])
    rw [recordCrcs, hstored, hcomputed] at hparse
    exact hparse
  · have hparse := execChunkParse_ok hin (by omega) (by rwa [hcomputed, hstored])
    rw [takeFrame_eq_numbers] at hparse
    exact hparse

/-- Settles O43: a length below 12, a length below the frame's, or a whole frame. -/
theorem parseLengthBoundaries : Obligations.ParseLengthBoundaries := by
  intro s hin n
  have hlen : (parseLen s).toNat = n := parseLen_toNat s
  rcases Nat.lt_or_ge s.srcLen.toNat 12 with h12 | h12
  · exact ⟨_, execChunkParse_tooShort hin h12, fun _ => rfl, fun _ => by omega, fun _ _ => by omega, fun _ => rfl⟩
  rcases Nat.lt_or_ge s.srcLen.toNat (n + 12) with hn | hn
  · exact ⟨_, execChunkParse_truncated hin h12 (by omega), fun _ => by omega, fun _ => by omega, fun _ _ => rfl,
      fun _ => by omega⟩
  by_cases heq : parseComputed s = parseStored s
  · exact ⟨_, execChunkParse_ok hin (by omega) heq, fun _ => by omega, fun _ => .inl rfl, fun _ _ => by omega,
      fun _ => by omega⟩
  · exact ⟨_, execChunkParse_crcMismatch hin (by omega) heq, fun _ => by omega, fun _ => .inr rfl,
      fun _ _ => by omega, fun _ => by omega⟩

/-- Settles O44: no failing outcome writes the descriptor or OUT_LEN. -/
theorem failedParseKeepsTheChunk : Obligations.FailedParseKeepsTheChunk := by
  intro s t h hfail
  rcases execChunkParse_cases h with ⟨-, -, -, rfl⟩ | rfl | rfl | rfl | ⟨-, -, -, rfl⟩
  · exact absurd rfl hfail
  all_goals exact ⟨rfl, rfl, rfl, rfl, rfl, rfl⟩

/-- A CHUNK_PARSE with code OK has found a whole frame whose CRCs agree, and has taken it. -/
theorem execChunkParse_cases_of_ok {s t : State} (h : execChunkParse s = .next t) (hok : t.errCode = .ok) :
    srcInBuf s = true ∧ (parseLen s).toNat + 12 ≤ s.srcLen.toNat ∧ parseComputed s = parseStored s ∧
      t = succeeded (takeFrame s) := by
  rcases execChunkParse_cases h with htaken | rfl | rfl | rfl | ⟨-, -, -, rfl⟩
  · exact htaken
  all_goals cases hok

/-! ### One changed byte of a frame -/

theorem bufByte_eq_of_bufBe32_eq {s t : State} {o p k : Nat} (h : bufBe32 t p = bufBe32 s o) (hk : k < 4) :
    bufByte t (p + k) = bufByte s (o + k) := by
  rw [← typeByte_bufBe32 t p k hk, h, typeByte_bufBe32 s o k hk]

theorem bufRead_split (s : State) (o : Nat) {n k : Nat} (h : k < n) :
    bufRead s o n = bufRead s o k ++ bufByte s (o + k) :: bufRead s (o + k + 1) (n - k - 1) := by
  obtain ⟨m, rfl⟩ : ∃ m, n = k + (m + 1) := ⟨n - k - 1, by omega⟩
  rw [bufRead_append, bufRead, show k + (m + 1) - k - 1 = m by omega]

/-- The CRC of a range tells the values of any one byte of it apart (41_crc.md R153(c)). -/
theorem bufByte_eq_of_crc32_bufRead_eq {s t : State} {o n k : Nat} (hk : k < n)
    (hother : ∀ a, a ≠ o + k → bufByte t a = bufByte s a) (h : crc32 (bufRead t o n) = crc32 (bufRead s o n)) :
    bufByte t (o + k) = bufByte s (o + k) := by
  have hbefore : bufRead t o k = bufRead s o k := bufRead_congr s t o o k fun j hj => hother _ (by omega)
  have hafter : bufRead t (o + k + 1) (n - k - 1) = bufRead s (o + k + 1) (n - k - 1) :=
    bufRead_congr s t _ _ _ fun j hj => hother _ (by omega)
  rw [bufRead_split t o hk, bufRead_split s o hk, hbefore, hafter] at h
  exact crc32_byte_injective _ _ h

section ChangedByte

variable {s t : State} {k : Nat} (hoff : t.srcOff = s.srcOff) (hk : 4 ≤ k)
  (hother : ∀ a, a ≠ s.srcOff.toNat + k → bufByte t a = bufByte s a)
include hoff hk hother

theorem parseLen_eq_of_byte_changed : parseLen t = parseLen s := by
  rw [parseLen, parseLen, hoff]
  exact bufBe32_congr s t _ _ fun j hj => hother _ (by omega)

/-- After one byte of the type, the payload or the CRC field has changed, the CRCs that agreed disagree: the byte is
either in the recomputed CRC or in the stored one, and the other CRC stays. -/
theorem parse_crcs_differ_of_byte_changed (heq : parseComputed s = parseStored s)
    (hk' : k < 12 + (parseLen s).toNat) (hne : bufByte t (s.srcOff.toNat + k) ≠ bufByte s (s.srcOff.toNat + k)) :
    parseComputed t ≠ parseStored t := by
  intro hagree
  have hlen := parseLen_eq_of_byte_changed hoff hk hother
  rcases Nat.lt_or_ge k (8 + (parseLen s).toNat) with hregion | hfield
  · have hstored : parseStored t = parseStored s := by
      rw [parseStored, parseStored, hlen, hoff]
      exact bufBe32_congr s t _ _ fun j hj => hother _ (by omega)
    have hcrc : parseComputed t = parseComputed s := by rw [hagree, hstored, heq]
    rw [parseComputed, parseComputed, hlen, hoff] at hcrc
    have hpos : s.srcOff.toNat + k = s.srcOff.toNat + 4 + (k - 4) := by omega
    rw [hpos] at hne hother
    exact hne (bufByte_eq_of_crc32_bufRead_eq (by omega) hother hcrc)
  · have hcomputed : parseComputed t = parseComputed s := by
      rw [parseComputed, parseComputed, hlen, hoff]
      exact congrArg crc32 (bufRead_congr s t _ _ _ fun j hj => hother _ (by omega))
    have hcrc : parseStored t = parseStored s := by rw [← hagree, hcomputed, heq]
    rw [parseStored, parseStored, hlen, hoff] at hcrc
    have hpos : s.srcOff.toNat + k =
        s.srcOff.toNat + 8 + (parseLen s).toNat + (k - (8 + (parseLen s).toNat)) := by omega
    rw [hpos] at hne
    exact hne (bufByte_eq_of_bufBe32_eq hcrc (by omega))

end ChangedByte

/-- Settles O45: the flipped bit is outside the length field, so the length checks pass again, and the CRCs differ. -/
theorem oneFlippedBitMakesParseFail : Obligations.OneFlippedBitMakesParseFail := by
  intro s s' t k j h hok hs' hk hk' hj hflip hother
  obtain ⟨hin, hlen, heq, rfl⟩ := execChunkParse_cases_of_ok h hok
  have hoff : s'.srcOff = s.srcOff := by rw [hs']
  have hsrcLen : s'.srcLen = s.srcLen := by rw [hs']
  have hsize : s'.bufSize = s.bufSize := by rw [hs']; rfl
  have hne : bufByte s' (s.srcOff.toNat + k) ≠ bufByte s (s.srcOff.toNat + k) := hflip ▸ byte_flip_ne _ hj
  refine ⟨_, execChunkParse_crcMismatch ?_ ?_ (parse_crcs_differ_of_byte_changed hoff hk hother heq hk' hne), rfl⟩
  · rwa [hoff, hsrcLen, hsize, ← srcInBuf_iff]
  · rwa [parseLen_eq_of_byte_changed hoff hk hother, hsrcLen]

/-! ### The outcomes of CHUNK_EMIT -/

/-- The state after a successful CHUNK_EMIT (43_chunk_frame.md R210). -/
def emitted (s : State) : State :=
  succeeded { bufWrite s.dstOff.toNat (emitFrame s) s with outLen := 12#32 + s.chLen }

section EmitOutcome

variable {s : State}

theorem execChunkEmit_noChunk (hv : s.chValid = false) : execChunkEmit s = .next (failedWith .noChunk s) :=
  if_neg (Bool.eq_false_iff.mp hv)

variable (hv : s.chValid = true)
include hv

theorem execChunkEmit_range (hd : s.bufSize < s.dstOff.toNat + 12 + s.chLen.toNat) :
    execChunkEmit s = .next (failedWith .range s) :=
  (if_pos hv).trans (if_pos hd)

variable (hd : s.dstOff.toNat + 12 + s.chLen.toNat ≤ s.bufSize)
include hd

theorem execChunkEmit_overlap (ho : overlaps s.chPayloadOff.toNat s.chLen.toNat s.dstOff.toNat = true) :
    execChunkEmit s = .next (failedWith .overlap s) :=
  (if_pos hv).trans ((if_neg (by omega)).trans (if_pos ho))

variable (ho : ¬overlaps s.chPayloadOff.toNat s.chLen.toNat s.dstOff.toNat = true)
include ho

theorem execChunkEmit_fault (hp : s.bufSize < s.chPayloadOff.toNat + s.chLen.toNat) :
    execChunkEmit s = .fault .payloadOutsideBuf :=
  (if_pos hv).trans ((if_neg (by omega)).trans ((if_neg ho).trans (if_pos hp)))

theorem execChunkEmit_ok (hp : s.chPayloadOff.toNat + s.chLen.toNat ≤ s.bufSize) :
    execChunkEmit s = .next (emitted s) :=
  (if_pos hv).trans ((if_neg (by omega)).trans ((if_neg ho).trans (if_neg (by omega))))

end EmitOutcome

/-- Settles O47: the three checks in their order, and the overlap test on numbers. -/
theorem chunkEmitRefusals : Obligations.ChunkEmitRefusals := by
  intro s d p n overlapping
  have hoverlap : overlaps p n d = true ↔ overlapping := overlaps_iff p n d
  exact ⟨execChunkEmit_noChunk, execChunkEmit_range, fun hv hd ho => execChunkEmit_overlap hv hd (hoverlap.mpr ho),
    fun hv hd ho hp => execChunkEmit_fault hv hd (mt hoverlap.mp ho) hp⟩

/-! ### The frame that BUF holds -/

/-- Reading the bytes of a frame is reading its four fields (43_chunk_frame.md R195). -/
theorem bufRead_eq_frame (s : State) (o n : Nat) : bufRead s o (12 + n) =
    frame (bufBe32 s o) (bufBe32 s (o + 4)) (bufRead s (o + 8) n) (bufBe32 s (o + 8 + n)) := by
  rw [show 12 + n = 4 + (4 + (n + 4)) by omega, bufRead_append, bufRead_append, bufRead_append, frame]
  simp only [be32_bufBe32, Nat.add_assoc, Nat.reduceAdd]

theorem be32_injective : Function.Injective be32 := by
  intro v w h
  simp only [be32, List.cons.injEq] at h
  obtain ⟨h0, h1, h2, h3, -⟩ := h
  rw [← fromBe32_be32 v, ← fromBe32_be32 w, h0, h1, h2, h3]

/-- Frames with payloads of one length have equal fields if they have equal bytes. -/
theorem frame_inj {n n' t t' c c' : Word} {p p' : List Byte} (hlen : p.length = p'.length)
    (h : frame n t p c = frame n' t' p' c') : n = n' ∧ t = t' ∧ p = p' ∧ c = c' := by
  obtain ⟨hn, h⟩ := List.append_inj h rfl
  obtain ⟨ht, h⟩ := List.append_inj h rfl
  obtain ⟨hp, hc⟩ := List.append_inj h hlen
  exact ⟨be32_injective hn, be32_injective ht, hp, be32_injective hc⟩

theorem bufRead_bufWrite (s : State) (o : Nat) (bs : List Byte) : bufRead (bufWrite o bs s) o bs.length = bs := by
  apply List.ext_getElem (bufRead_length _ _ _)
  intro k _ hk
  rw [bufRead_getElem, bufByte_bufWrite_inside s o k bs hk]

theorem bufByte_eq_of_bufRead_eq {s t : State} {o p n k : Nat} (h : bufRead t p n = bufRead s o n) (hk : k < n) :
    bufByte t (p + k) = bufByte s (o + k) := by
  have hk' : k < (bufRead t p n).length := by rwa [bufRead_length]
  rw [← bufRead_getElem t p n k hk', ← bufRead_getElem s o n k (h ▸ hk')]
  congr 1

theorem bufRead_emitted (s : State) : bufRead (emitted s) s.dstOff.toNat (12 + s.chLen.toNat) = emitFrame s :=
  calc bufRead (emitted s) s.dstOff.toNat (12 + s.chLen.toNat)
    _ = bufRead (bufWrite s.dstOff.toNat (emitFrame s) s) s.dstOff.toNat (12 + s.chLen.toNat) :=
      bufRead_congr _ _ _ _ _ fun _ _ => rfl
    _ = emitFrame s := by rw [← emitFrame_length, bufRead_bufWrite]

theorem bufByte_emitted_outside {s : State} {a : Nat}
    (h : a < s.dstOff.toNat ∨ s.dstOff.toNat + 12 + s.chLen.toNat ≤ a) : bufByte (emitted s) a = bufByte s a :=
  bufByte_bufWrite_outside s s.dstOff.toNat a (emitFrame s) (by rwa [emitFrame_length, ← Nat.add_assoc])

/-- The fields of the frame that CHUNK_EMIT wrote: those of the descriptor, and the payload bytes as they were. -/
theorem emitted_fields (s : State) :
    bufBe32 (emitted s) s.dstOff.toNat = s.chLen ∧
    bufBe32 (emitted s) (s.dstOff.toNat + 4) = s.chType ∧
    bufRead (emitted s) (s.dstOff.toNat + 8) s.chLen.toNat = bufRead s s.chPayloadOff.toNat s.chLen.toNat ∧
    bufBe32 (emitted s) (s.dstOff.toNat + 8 + s.chLen.toNat) = s.chCrc := by
  have hframe := bufRead_emitted s
  rw [bufRead_eq_frame] at hframe
  exact frame_inj (by rw [bufRead_length, bufRead_length]) hframe

theorem bufByte_toNat_of_bufBe32 {s : State} {o : Nat} {v : Word} (h : bufBe32 s o = v) {k : Nat} (hk : k < 4) :
    (bufByte s (o + k)).toNat = v.toNat / 256 ^ (3 - k) % 256 := by
  rw [← typeByte_bufBe32 s o k hk, h, typeByte_toNat v k hk]

/-- Settles O46: the bytes are those of the four fields of the frame written. -/
theorem chunkEmitWritesTheFrame : Obligations.ChunkEmitWritesTheFrame := by
  refine ⟨decode_eq_ok_iff_of_encode (by decide), ?_⟩
  intro s d p n hv hp hd ho
  obtain ⟨hlen, htype, hpayload, hcrc⟩ := emitted_fields s
  have houtLen : 12#32 + s.chLen = BitVec.ofNat 32 (12 + n) := by simp [n, BitVec.ofNat_add]
  refine ⟨_, execChunkEmit_ok hv hd (mt (overlaps_iff p n d).mp ho) hp, ?_,
    fun k => bufByte_toNat_of_bufBe32 hlen, fun k => bufByte_toNat_of_bufBe32 htype,
    fun k => bufByte_eq_of_bufRead_eq hpayload, fun k => bufByte_toNat_of_bufBe32 hcrc,
    fun a => bufByte_emitted_outside⟩
  rw [← houtLen]
  rfl

/-! ### The commands one after another -/

/-- A CHUNK_EMIT with code OK has written its frame. -/
theorem eq_emitted_of_ok {s t : State} (h : execChunkEmit s = .next t) (hok : t.errCode = .ok) : t = emitted s := by
  rcases execChunkEmit_cases h with ⟨-, -, -, -, ht⟩ | rfl | rfl | rfl
  · exact ht
  all_goals cases hok

/-- A state that has the chunk of a parsed frame and its payload bytes emits that frame. -/
theorem emitFrame_eq_bufRead {s m : State} (hlen : m.chLen = parseLen s)
    (htype : m.chType = bufBe32 s (s.srcOff.toNat + 4)) (hcrc : m.chCrc = parseStored s)
    (hoff : m.chPayloadOff.toNat = s.srcOff.toNat + 8)
    (hpayload : ∀ k < (parseLen s).toNat, bufByte m (s.srcOff.toNat + 8 + k) = bufByte s (s.srcOff.toNat + 8 + k)) :
    emitFrame m = bufRead s s.srcOff.toNat (12 + (parseLen s).toNat) := by
  rw [emitFrame, hlen, htype, hcrc, hoff, bufRead_congr s m _ _ _ hpayload, bufRead_eq_frame]
  rfl

/-- Settles O49: the frame emitted has the bytes of the frame parsed, and BUF holds it at DST_OFF. -/
theorem parseThenEmitReproducesTheFrame : Obligations.ParseThenEmitReproducesTheFrame := by
  intro s t m u hc hparse hok _ hlen htype hoff hcrc hpayload hemit hok'
  obtain rfl := eq_emitted_of_ok hemit hok'
  obtain ⟨hin, hn, -, rfl⟩ := execChunkParse_cases_of_ok hparse hok
  have hlen' : m.chLen = parseLen s := hlen
  have hplace : m.chPayloadOff.toNat = s.srcOff.toNat + 8 := hoff ▸ payloadOff_toNat hc hin (by omega)
  have hread : bufRead (emitted m) m.dstOff.toNat (12 + (parseLen s).toNat) =
      bufRead s s.srcOff.toNat (12 + (parseLen s).toNat) := by
    rw [← emitFrame_eq_bufRead hlen' htype hcrc hplace hpayload, ← hlen', bufRead_emitted]
  refine ⟨?_, fun k hk => bufByte_eq_of_bufRead_eq hread hk⟩
  rw [srcInBuf_iff] at hin
  exact hlen ▸ outLen_toNat hc (n := m.chLen) (by rw [hlen']; omega)

/-- The state after a successful CHUNK_EMIT, with the source range set to the frame it wrote. -/
def reparsing (s : State) : State := { emitted s with srcOff := s.dstOff, srcLen := 12#32 + s.chLen }

section Reparsing

variable (s : State)

theorem parseLen_reparsing : parseLen (reparsing s) = s.chLen := by
  obtain ⟨hlen, -, -, -⟩ := emitted_fields s
  exact hlen

theorem bufBe32_reparsing_type : bufBe32 (reparsing s) (s.dstOff.toNat + 4) = s.chType := by
  obtain ⟨-, htype, -, -⟩ := emitted_fields s
  exact htype

theorem bufRead_reparsing_payload :
    bufRead (reparsing s) (s.dstOff.toNat + 8) s.chLen.toNat = bufRead s s.chPayloadOff.toNat s.chLen.toNat := by
  obtain ⟨-, -, hpayload, -⟩ := emitted_fields s
  exact (bufRead_congr (emitted s) (reparsing s) _ _ _ fun _ _ => rfl).trans hpayload

theorem parseStored_reparsing : parseStored (reparsing s) = s.chCrc := by
  obtain ⟨-, -, -, hcrc⟩ := emitted_fields s
  rw [parseStored, parseLen_reparsing]
  exact hcrc

theorem parseComputed_reparsing : parseComputed (reparsing s) =
    crc32 (be32 s.chType ++ bufRead s s.chPayloadOff.toNat s.chLen.toNat) := by
  rw [parseComputed_eq, parseLen_reparsing]
  exact congrArg₂ (fun t p => crc32 (be32 t ++ p)) (bufBe32_reparsing_type s) (bufRead_reparsing_payload s)

variable {s} (hc : s.cfg.wellFormed = true) (hd : s.dstOff.toNat + 12 + s.chLen.toNat ≤ s.bufSize)
include hc hd

theorem reparsing_srcLen_toNat : (reparsing s).srcLen.toNat = 12 + s.chLen.toNat :=
  outLen_toNat hc (by omega)

theorem reparsing_srcInBuf : (reparsing s).srcOff.toNat + (reparsing s).srcLen.toNat ≤ (reparsing s).bufSize := by
  rw [reparsing_srcLen_toNat hc hd, ← Nat.add_assoc]
  exact hd

/-- CHUNK_PARSE accepts the frame that CHUNK_EMIT wrote for a chunk with the CRC of its type and payload. -/
theorem execChunkParse_reparsing (hv : s.chValid = true) (hcrc : s.chunkCrcHolds) :
    execChunkParse (reparsing s) = .next (succeeded (takeFrame (reparsing s))) := by
  refine execChunkParse_ok (reparsing_srcInBuf hc hd) ?_ ?_
  · rw [parseLen_reparsing, reparsing_srcLen_toNat hc hd, Nat.add_comm]
  · rw [parseComputed_reparsing, parseStored_reparsing, hcrc hv]

theorem takeFrame_reparsing_payloadOff :
    (takeFrame (reparsing s)).chPayloadOff.toNat = s.dstOff.toNat + 8 :=
  payloadOff_toNat hc ((srcInBuf_iff _).mpr (reparsing_srcInBuf hc hd)) (by rw [reparsing_srcLen_toNat hc hd]; omega)

end Reparsing

/-- The state after a successful CHUNK_NEW, with DST_OFF set to `d`. -/
def newChunkAt (s : State) (d : Word) : State :=
  { succeeded (setDescriptor s.srcLen s.typeReg s.srcOff (crc32 (be32 s.typeReg ++ srcBytes s)) s) with dstOff := d }

theorem newChunkAt_chunkCrcHolds (s : State) (d : Word) : (newChunkAt s d).chunkCrcHolds := by
  refine chunkCrcHolds_congr ?_ (fun _ _ => ?_) (succeeded_chunkCrcHolds (newDescriptor_chunkCrcHolds s))
  · rfl
  · rfl

/-- Settles O50: CHUNK_NEW gives the chunk its CRC, so CHUNK_PARSE accepts the emitted frame and reads the chunk's
fields back from it. -/
theorem newEmitParseRoundTrip : Obligations.NewEmitParseRoundTrip := by
  intro s d hc hin hd ho
  have hnew : exec .chunkNew s = _ := execChunkNew_ok hin
  have hemit : exec .chunkEmit (newChunkAt s d) = _ := execChunkEmit_ok rfl hd (Bool.eq_false_iff.mp ho) hin
  have hparse : exec .chunkParse (reparsing (newChunkAt s d)) = _ :=
    execChunkParse_reparsing hc hd rfl (newChunkAt_chunkCrcHolds s d)
  have hpayload : ∀ k < s.srcLen.toNat, bufByte (reparsing (newChunkAt s d)) (d.toNat + 8 + k) =
      bufByte (newChunkAt s d) (s.srcOff.toNat + k) :=
    fun k => bufByte_eq_of_bufRead_eq (bufRead_reparsing_payload (newChunkAt s d))
  exact ⟨_, _, _, hnew, rfl, hemit, rfl, hparse, rfl, parseLen_reparsing _, rfl, bufBe32_reparsing_type _, rfl,
    parseStored_reparsing _, takeFrame_reparsing_payloadOff (s := newChunkAt s d) hc hd, rfl, hpayload⟩

end Sys2Proof.Machine
end

section
/-! PROOFS of the exceptions family (60_exceptions.md R250 to R260): the codes each command can complete with, what a
failing command leaves, that no error stops the machine, and the interrupt output. -/

namespace Sys2Proof.Machine

/-! ### No error stops the machine -/

/-- Settles O14: the invariant excludes the one descriptor on which a command faults. -/
theorem goodStatesNeverStop : Obligations.GoodStatesNeverStop := fun _ => step_answers

/-! ### The codes of each command -/

/-- The codes a command can complete with: OK, then those of its checks in their order (60_exceptions.md R254). -/
def completionCodes : Instr → List ErrCode
  | .nop | .crcInit | .crcByte _ => [.ok]
  | .crcBuf | .chunkNew => [.ok, .range]
  | .typeLoadStr => [.ok, .range, .invalidChunkType]
  | .chunkParse => [.ok, .range, .tooShort, .truncated, .crcMismatch]
  | .chunkEmit => [.ok, .noChunk, .range, .overlap]

theorem exec_errCode_mem {i : Instr} {s t : State} (h : exec i s = .next t) : t.errCode ∈ completionCodes i := by
  cases i with
  | nop | crcInit | crcByte =>
    obtain rfl := Host.Outcome.next.inj h
    exact List.mem_singleton.mpr rfl
  | crcBuf => rcases execCrcBuf_cases h with ⟨-, rfl⟩ | rfl <;> simp [completionCodes]
  | typeLoadStr => rcases execTypeLoadStr_cases h with ⟨-, -, -, rfl⟩ | rfl | rfl <;> simp [completionCodes]
  | chunkNew => rcases execChunkNew_cases h with ⟨-, rfl⟩ | rfl <;> simp [completionCodes]
  | chunkParse =>
    rcases execChunkParse_cases h with ⟨-, -, -, rfl⟩ | rfl | rfl | rfl | ⟨-, -, -, rfl⟩ <;> simp [completionCodes]
  | chunkEmit =>
    rcases execChunkEmit_cases h with ⟨-, -, -, -, rfl⟩ | rfl | rfl | rfl <;> simp [completionCodes]

/-- Settles O54, by the list of each command's codes. -/
theorem errorCodesOfEachCommand : Obligations.ErrorCodesOfEachCommand := by
  intro i s t h
  have hmem : t.errCode ∈ completionCodes i := exec_errCode_mem h
  refine ⟨?_, ?_, ?_, ?_, ?_⟩
  · rintro (rfl | rfl | ⟨b, rfl⟩) <;> exact List.mem_singleton.mp hmem
  · rintro (rfl | rfl) <;> exact hmem
  all_goals
    rintro rfl
    exact hmem

/-! ### Precise errors -/

section Failing

variable {i : Instr} {s t : State} (h : exec i s = .next t)
include h

/-- A failure that records no CRCs writes STATUS alone. -/
theorem exec_eq_failedWith (hok : t.errCode ≠ .ok) (hcrc : t.errCode ≠ .crcMismatch) : t = failedWith t.errCode s := by
  rcases exec_cases h with ⟨e, -, -, rfl⟩ | ⟨-, -, rfl⟩ | ⟨-, rfl⟩ | ⟨-, rfl⟩ | ⟨b, -, rfl⟩ | ⟨-, -, rfl⟩ | ⟨-, rfl⟩ |
    ⟨-, -, rfl⟩ | ⟨-, -, -, -, rfl⟩ | ⟨-, -, -, -, rfl⟩
  · rfl
  · exact absurd rfl hcrc
  all_goals exact absurd rfl hok

/-- CRC_MISMATCH is CHUNK_PARSE's alone, and it records the two CRCs that differ (60_exceptions.md R253). -/
theorem exec_crcMismatch (hcrc : t.errCode = .crcMismatch) :
    i = .chunkParse ∧ parseComputed s ≠ parseStored s ∧ t = failedWith .crcMismatch (recordCrcs s) := by
  have hmem : ErrCode.crcMismatch ∈ completionCodes i := hcrc ▸ exec_errCode_mem h
  cases i with
  | chunkParse =>
    rcases execChunkParse_cases h with ⟨-, -, -, rfl⟩ | rfl | rfl | rfl | ⟨-, -, hne, ht⟩
    iterate 4 cases hcrc
    exact ⟨rfl, hne, ht⟩
  | nop | crcInit | crcByte | crcBuf | typeLoadStr | chunkNew | chunkEmit => simp [completionCodes] at hmem

end Failing

/-- Settles O53, by whether the code is CRC_MISMATCH. -/
theorem failingCommandsChangeOnlyStatus : Obligations.FailingCommandsChangeOnlyStatus := by
  intro i s t h hok
  refine ⟨exec_eq_failedWith h hok, fun hcrc => ?_⟩
  obtain ⟨hi, hne, rfl⟩ := exec_crcMismatch h hcrc
  exact ⟨hi, rfl, hne.symm⟩

/-! ### The interrupt output -/

theorem irq_iff (s : State) : irq s = true ↔ s.ie = true ∧ s.done = true := by
  simp [irq]

@[simp] theorem irq_reply (r : Reply) (s : State) : irq (reply r s) = irq s := rfl

/-- A completion leaves IE as it was (60_exceptions.md R260). -/
theorem completionStep_ie {s t : State} (h : completionStep s = .next t) : t.ie = s.ie := by
  rcases completionStep_cases h with ⟨i, -, hx⟩ | ⟨-, rfl⟩
  · obtain ⟨-, -, hie, -⟩ := exec_keeps_inputs hx
    exact hie
  · rfl

/-- Whatever its code, a completion turns IRQ into IE. -/
theorem completionStep_irq {s t : State} (h : completionStep s = .next t) : irq t = s.ie := by
  obtain ⟨-, hdone, -⟩ := completionStep_status h
  simp [irq, completionStep_ie h, hdone]

/-- IRQ after a host write of the register window is that of the register's own write. -/
theorem irq_registerWrite {o : Nat} (halign : o % 4 = 0) (hwin : o + 4 ≤ 256) (s : State) (v : Word) :
    irq (performAccess ⟨.registers, o, 32, .write v⟩ s) = irq (writeWindow o v s) := by
  rw [performAccess_registerWrite halign hwin, irq_reply]

/-- Settles O28: a completion sets DONE and keeps IE; each of the writes sets IE or DONE, except a dropped one. -/
theorem interruptFollowsEnableAndDone : Obligations.InterruptFollowsEnableAndDone := by
  refine ⟨irq_iff, fun s t rest hb hie hin h => ?_, fun s v hv => ?_, fun s w hb => ?_, fun s v => ?_, fun s => rfl,
    fun s w hb => ?_⟩
  · rw [step_coreTurn_busy hb hin] at h
    exact (completionStep_irq h).trans hie
  · have hwrite : writeWindow 0x08 v s = writeStatus v s := rfl
    rw [irq_registerWrite (by decide) (by decide), hwrite]
    simp [irq, hv]
  · have hwrite : writeWindow 0x04 w s = acceptCommand w s := writeCmd_idle w s hb
    rw [irq_registerWrite (by decide) (by decide), hwrite]
    simp [irq]
  · exact irq_registerWrite (by decide) (by decide) s v
  · have hwrite : writeWindow 0x04 w s = { s with ovr := true } := writeCmd_busy w s hb
    rw [irq_registerWrite (by decide) (by decide), hwrite]
    rfl

end Sys2Proof.Machine
end

section
/-! PROOFS of the reset family (70_reset_and_hazards.md R280 to R282): the invariant after a reset, what the register
window and BUF read as then, and what a reset abandons. -/

namespace Sys2Proof.Machine

/-! ### The state after reset -/

/-- Settles O13: the reference configuration is legal, so State.reset is one of the states after reset. -/
theorem resetSatisfiesTheInvariant : Obligations.ResetSatisfiesTheInvariant := by
  have href : Config.reference.wellFormed = true := by decide
  exact ⟨afterReset_inv 0 href, fun _ k hc => afterReset_inv k hc⟩

/-- The reset column of the register map (10_state.md R22, R28, R33). -/
def resetValue : Reg → Word
  | .id => 0x504E4743#32
  | .crcState => 0xFFFFFFFF#32
  | .typeFlags => 0x00030707#32
  | _ => 0x00000000#32

/-- STATUS, CRC_RESULT and TYPE_FLAGS are put together from stored values; every other register holds its own. -/
theorem readReg_afterReset (c : Config) (k : Nat) (r : Reg) : readReg (State.afterReset c k) r = resetValue r := by
  cases r with
  | status => simp [readReg, statusWord, flagAt, State.afterReset, ErrCode.code, resetValue]
  | crcResult => exact BitVec.xor_self
  | typeFlags => exact typeFlags_of_zero rfl rfl rfl
  | _ => rfl

theorem readWindow_afterReset {o : Nat} {r : Reg} (h : regAt o = some r) (c : Config) (k : Nat) :
    readWindow (State.afterReset c k) o = resetValue r := by
  simp [readWindow, h, readReg_afterReset]

/-- BUF with nothing written reads as RESET_BUF (70_reset_and_hazards.md R281). -/
theorem bufByte_of_nothing_written {s : State} (h : s.buf = []) (o : Nat) : bufByte s o = Config.resetBuf s.resets o := by
  simp [bufByte, h]

/-- Settles O17: the register map's reset column, offset by offset, and BUF with nothing written. -/
theorem resetLeavesTheResetValues : Obligations.ResetLeavesTheResetValues := by
  intro c k s
  have hzero : ∀ o ∈ [0x04, 0x08, 0x0C, 0x14, 0x18, 0x1C, 0x20, 0x24, 0x28, 0x30, 0x34, 0x38, 0x3C, 0x40, 0x44, 0x48,
      0x4C], ∃ r, regAt o = some r ∧ resetValue r = 0x00000000#32 := by simp [regAt, resetValue]
  refine ⟨rfl, rfl, rfl, fun o ho => ?_, readWindow_afterReset (r := .id) rfl c k,
    readWindow_afterReset (r := .crcState) rfl c k, readWindow_afterReset (r := .typeFlags) rfl c k,
    bufByte_of_nothing_written rfl⟩
  obtain ⟨r, hr, hval⟩ := hzero o ho
  exact (readWindow_afterReset hr c k).trans hval

/-! ### The step of a reset -/

theorem step_reset {s : State} {rest : List Event} (hin : s.inbox = .reset :: rest) :
    step s = .next (resetCore { s with inbox := rest }) := by
  simp [step, hin]

/-- Settles O18: the step does not look at the command in flight or at the stalled access. -/
theorem resetAbandonsCommandAndStalledAccess : Obligations.ResetAbandonsCommandAndStalledAccess := by
  intro s rest hin
  exact ⟨resetCore { s with inbox := rest }, step_reset hin, rfl, rfl, rfl, rfl, bufByte_of_nothing_written rfl⟩

end Sys2Proof.Machine
end
